-- ==== Sys2Proof/Word.lean ====
section
/-! DEFINITION. The widths of rules R6, R7 and R64: what the hardware treats as bits. -/

namespace Sys2Proof

/-- A stream symbol: a message byte or an 8-bit character code (R7 `BYTE_W`, `CHAR_W`, R64). -/
abbrev Byte := BitVec 8

/-- A base-45 digit as the registers and the tables hold it: 6 bits, legal values 0..44 (R7 `DIGIT_W`, R25). -/
abbrev Digit := BitVec 6

/-- An input event word `W[9:0] = (rst, kind, data)` (R82). -/
abbrev EventWord := BitVec 10

/-- The radix of the code (R6). -/
abbrev radix : Nat := 45

end Sys2Proof
end

