-- ==== Sys2Proof/Config.lean ====
section
/-! DEFINITION. What the spec leaves to an implementation, and the model's free values. -/

namespace Sys2Proof

/-- `POS_W`: the width of the position an ERROR event carries at the port, default 32 (R8, D14).
It bounds only the output word of R83: the machine's own position is a natural number (R26, R235; log entry 5). -/
def Config.posW : Nat := 32

/-- `ENC_LATENCY`: left open by R8 and read by no rule (R236), so by no definition of the model (log entry 10). -/
opaque Config.encLatency : Nat

/-- `DEC_LATENCY`: left open by R8 and read by no rule (R236), so by no definition of the model (log entry 10). -/
opaque Config.decLatency : Nat

/-- FREE VALUE (R222, U6; log entry 4): how many of ENC's undelivered output events leave the port before the `n`-th
ENC.RESET discards the rest. -/
opaque Config.encDelivered (n : Nat) : Nat

/-- FREE VALUE (R222, U6; log entry 4): the same for DEC. -/
opaque Config.decDelivered (n : Nat) : Nat

end Sys2Proof
end

