-- ==== Sys2Proof/Syntax.lean ====
section
/-! DEFINITION. The six operations of rule R84 and the port words they arrive as. -/

namespace Sys2Proof

/-- The two input ports. The port, not a bit of the word, decides which block a word addresses (R82). -/
inductive Port where
  | enc
  | dec
  deriving DecidableEq, Repr

/-- An input event word together with the port it arrives on (R82). -/
structure PortWord where
  port : Port
  word : EventWord
  deriving DecidableEq, Repr

/-- The operation set, one constructor per row of the operation map (R84). RESET and END carry the bits that R87 calls
ignored, so that decoding drops no bit; no meaning reads them. -/
inductive Instr where
  /-- ENC.RESET, R140; `W[8:0]` ignored. -/
  | encReset (ignored : BitVec 9)
  /-- ENC.DATA, R141. -/
  | encData (data : Byte)
  /-- ENC.END, R142; `W[7:0]` ignored. -/
  | encEnd (ignored : BitVec 8)
  /-- DEC.RESET, R160; `W[8:0]` ignored. -/
  | decReset (ignored : BitVec 9)
  /-- DEC.CHAR, R161. -/
  | decChar (data : Byte)
  /-- DEC.END, R162; `W[7:0]` ignored. -/
  | decEnd (ignored : BitVec 8)
  deriving DecidableEq, Repr

/-- The block an operation belongs to. -/
def Instr.port : Instr → Port
  | .encReset _ => .enc
  | .encData _ => .enc
  | .encEnd _ => .enc
  | .decReset _ => .dec
  | .decChar _ => .dec
  | .decEnd _ => .dec

/-- Why a table word is not decoded. -/
inductive DecodeReject where
  /-- The number is no 11-bit table word (R84): it has a bit above bit 10, or above the bits the caller gives it. -/
  | notATableWord
  deriving DecidableEq, Repr

end Sys2Proof
end

