-- ==== Sys2Proof/Machine/State.lean ====
section
/-! DEFINITION. The state of the two blocks and their ports (R20 to R38), the reasons a step can stop, and reset (R34). -/

namespace Sys2Proof.Machine

/-- The two errors of R190; both are raised by DEC only. -/
inductive ErrCode where
  /-- Code 1: a character outside the alphabet (R191). -/
  | invalidCharacter
  /-- Code 2: a last character that belongs to no group (R192). -/
  | danglingCharacter
  deriving DecidableEq, Repr

/-- ENC's output events (R83): `CHAR(c) | DONE`. -/
inductive EncOut where
  | char (c : Byte)
  | done
  deriving DecidableEq, Repr

/-- DEC's output events (R83): `BYTE(b) | DONE | ERROR(code, c, p)`. -/
inductive DecOut where
  | byte (b : Byte)
  | done
  | error (code : ErrCode) (c : Byte) (p : Nat)
  deriving DecidableEq, Repr

/-- The registers that may hold no value (R35). -/
inductive Register where
  | encHi
  | decD0
  | decD1
  deriving DecidableEq, Repr

/-- ENC's registers. -/
structure EncState where
  /-- Whether the block has had its first RESET (R220, U10; log entry 2). -/
  started : Bool
  /-- `enc.have` (R21): a first byte of a pair is held. -/
  held : Bool
  /-- `enc.hi` (R22), or no value (R35; log entry 1). -/
  hi : Option Byte
  deriving DecidableEq, Repr

/-- DEC's registers. -/
structure DecState where
  /-- Whether the block has had its first RESET (R220, U10; log entry 2). -/
  started : Bool
  /-- `dec.cnt` (R24): characters of the current group held; 3 never occurs. -/
  cnt : BitVec 2
  /-- `dec.d0` (R25), or no value (R35; log entry 1). -/
  d0 : Option Digit
  /-- `dec.d1` (R25), or no value (R35; log entry 1). -/
  d1 : Option Digit
  /-- `dec.pos` (R26): the position the next character will have (log entry 5). -/
  pos : Nat
  /-- `dec.failed` (R27). -/
  failed : Bool
  deriving DecidableEq, Repr

/-- A block's output stream (R57). What the consumer sees of it is `delivered ++ inFlight`, unless a later RESET discards
part of `inFlight` (R222; log entry 4). -/
structure OutPort (α : Type) where
  /-- The events that had left the port when a RESET came, oldest first. -/
  delivered : List α
  /-- The events emitted since the last RESET of the block, oldest first; a RESET may still discard them. -/
  inFlight : List α
  /-- The model's own counter of RESETs, the argument of the free value. -/
  draws : Nat
  deriving DecidableEq, Repr

/-- The machine: two blocks that share nothing writable (R20), their output streams, and the input events presented and not
yet accepted, in the order of acceptance (R56, R205; log entry 3). -/
structure State where
  enc : EncState
  dec : DecState
  encOut : OutPort EncOut
  decOut : OutPort DecOut
  pending : List PortWord
  deriving DecidableEq, Repr

/-- Why the machine stops with a fault. No run from reset meets one (R35, R53). -/
inductive Fault where
  /-- Raised by ENC.DATA, ENC.END, DEC.CHAR and DEC.END on a read of a register that holds no value without the guard that
  says it was written: the spec asks for this fault and says that no run takes it (R35, D19, U5; log entry 1). SAFE: the step has
  no effect and no next state. -/
  | unwrittenRead (r : Register)
  /-- Raised by DEC.END when a digit register addresses ROM_A at 45..63, addresses that do not exist (R67). SAFE. -/
  | romAddress (a : Digit)
  deriving DecidableEq, Repr

/-- Why the machine gives an event no meaning. -/
inductive Refusal where
  /-- Raised by no instruction: every arm of `exec` has its meaning. SAFE. -/
  | notModelled (mnemonic : String)
  /-- Raised by DATA and END of a block before that block's first RESET: "no other event may be presented" (R220, U10). SAFE. -/
  | beforeReset (p : Port)
  deriving DecidableEq, Repr

/-- What one event does. -/
abbrev Result := Host.Outcome State Fault Refusal

/-- ENC's registers after ENC.RESET (R34, R140). -/
def EncState.afterReset : EncState := ⟨true, false, none⟩

/-- DEC's registers after DEC.RESET (R34, R160). -/
def DecState.afterReset : DecState := ⟨true, 0#2, none, none, 0, false⟩

/-- A port that has never carried an event. -/
def OutPort.fresh (α : Type) : OutPort α := ⟨[], [], 0⟩

/-- The machine right after the power-up RESET of both blocks (R34, R220): no output, no event presented. -/
def State.reset : State where
  enc := .afterReset
  dec := .afterReset
  encOut := .fresh EncOut
  decOut := .fresh DecOut
  pending := []

/-- The machine before the first RESET of either block: "all registers hold no value". The values that stand here in
`held`, `cnt`, `pos` and `failed` are read by no event, since every event but RESET is refused (R220, U10; log entry 2). -/
def State.powerUp : State where
  enc := ⟨false, false, none⟩
  dec := ⟨false, 0#2, none, none, 0, false⟩
  encOut := .fresh EncOut
  decOut := .fresh DecOut
  pending := []

end Sys2Proof.Machine
end

