-- ==== Sys2Proof/Machine/Flags.lean ====
section
/-! DEFINITION. The writes of the flag-like registers `enc.have`, `dec.cnt` and `dec.failed` with the registers they guard
(R21, R24, R27, R29). No operation writes a flag as a side effect of arithmetic (R29). -/

namespace Sys2Proof.Machine

/-- The first byte of a pair is held (R141, first branch). -/
def EncState.hold (data : Byte) (e : EncState) : EncState := { e with hi := some data, held := true }

/-- `enc.have <- 0`; `enc.hi` is left as it is and is no longer meaningful (R141, R142). -/
def EncState.release (e : EncState) : EncState := { e with held := false }

/-- A valid first character of a group (R161). -/
def DecState.holdFirst (d : Digit) (x : DecState) : DecState := { x with d0 := some d, cnt := 1#2, pos := x.pos + 1 }

/-- A valid second character of a group (R161). -/
def DecState.holdSecond (d : Digit) (x : DecState) : DecState := { x with d1 := some d, cnt := 2#2, pos := x.pos + 1 }

/-- A valid third character completes the group; the held digits are left as they are (R161). -/
def DecState.closeGroup (x : DecState) : DecState := { x with cnt := 0#2, pos := x.pos + 1 }

end Sys2Proof.Machine
end

