-- ==== Sys2Proof/Machine/Tables.lean ====
section
/-! DEFINITION. The constant tables ROM_A and ROM_I (R50 to R55) and their reads (R13). -/

namespace Sys2Proof.Machine

/-- ROM_A's contents in order of digit: the characters of R51 by the codes of R52's table. -/
def alphabet : List Byte :=
  [0x30, 0x31, 0x32, 0x33, 0x34, 0x35, 0x36, 0x37, 0x38, 0x39] ++
  [0x41, 0x42, 0x43, 0x44, 0x45, 0x46, 0x47, 0x48, 0x49, 0x4A, 0x4B, 0x4C, 0x4D] ++
  [0x4E, 0x4F, 0x50, 0x51, 0x52, 0x53, 0x54, 0x55, 0x56, 0x57, 0x58, 0x59, 0x5A] ++
  [0x20, 0x24, 0x25, 0x2A, 0x2B, 0x2D, 0x2E, 0x2F, 0x3A]

/-- `MemRead(ROM_A, a)` for a 6-bit address: addresses 45..63 do not exist (R13, R67). -/
def romA (a : Digit) : Option Byte := alphabet[a.toNat]?

/-- `MemRead(ROM_A, x mod 45)`: the address is a remainder, so it always exists (R53 (c)). -/
def romAMod (x : Nat) : Byte := alphabet.getD (x % radix) 0

/-- The rows 2x to 5x of R55's table; every other row is empty. -/
def romIRow2 : List (Option Digit) :=
  [some 36, none, none, none, some 37, some 38, none, none, none, none, some 39, some 40, none, some 41, some 42, some 43]
def romIRow3 : List (Option Digit) :=
  [some 0, some 1, some 2, some 3, some 4, some 5, some 6, some 7, some 8, some 9, some 44, none, none, none, none, none]
def romIRow4 : List (Option Digit) :=
  [none, some 10, some 11, some 12, some 13, some 14, some 15, some 16, some 17, some 18, some 19, some 20, some 21, some 22,
    some 23, some 24]
def romIRow5 : List (Option Digit) :=
  [some 25, some 26, some 27, some 28, some 29, some 30, some 31, some 32, some 33, some 34, some 35, none, none, none, none, none]

/-- ROM_I's contents by character code, 256 entries (R55). An entry whose valid bit is 0 has no digit (R54, U13). -/
def romITable : List (Option Digit) :=
  List.replicate 32 none ++ (romIRow2 ++ romIRow3 ++ romIRow4 ++ romIRow5) ++ List.replicate 160 none

/-- `MemRead(ROM_I, c) = INDEX(c)` (R54). -/
def romI (c : Byte) : Option Digit := romITable.getD c.toNat none

end Sys2Proof.Machine
end

