-- ==== Sys2Proof/Machine/Operands.lean ====
section
/-! DEFINITION. Operand assembly (R85, R86): the working values and what is taken from them. -/

namespace Sys2Proof.Machine

/-- ENC's working value of a pair, `(enc.hi, data)`: the held byte in bits 15:8 (R58, R85). -/
def encPairValue (hi data : Byte) : BitVec 16 := hi ++ data

/-- ENC's working value of a tail, `zext_16(enc.hi)` (R85). -/
def encTailValue (hi : Byte) : BitVec 16 := hi.zeroExtend 16

/-- The three characters of a pair, least significant digit first (R81, R141). -/
def pairChars (v : BitVec 16) : List Byte :=
  [romAMod v.toNat, romAMod (v.toNat / 45), romAMod (v.toNat / 2025)]

/-- The two characters of a tail, least significant digit first (R81, R142). -/
def tailChars (v : BitVec 16) : List Byte :=
  [romAMod v.toNat, romAMod (v.toNat / 45)]

/-- DEC's 17-bit working value of a full group: `d` is the digit that completes the group and the most significant one
(R86, R161; 90_conflicts.md C1). -/
def decGroupValue (d d1 d0 : Digit) : BitVec 17 :=
  BitVec.ofNat 17 ((d.toNat * 45 + d1.toNat) * 45 + d0.toNat)

/-- DEC's 11-bit working value of a tail (R86, R162; 90_conflicts.md C1). -/
def decTailValue (d1 d0 : Digit) : BitVec 11 :=
  BitVec.ofNat 11 (d1.toNat * 45 + d0.toNat)

/-- `v[15:8]` then `v[7:0]`; `v[16]` is discarded (R60, R86, R114). -/
def groupBytes (v : BitVec 17) : List Byte := [v.extractLsb' 8 8, v.extractLsb' 0 8]

/-- `v[7:0]`; `v[10:8]` is discarded (R86, R114). -/
def tailByte (v : BitVec 11) : Byte := v.extractLsb' 0 8

/-- One stage of the digit extraction pipeline: the digit's character, and the value for the next stage (R143). -/
def stage (v : Nat) : Byte × Nat := (romAMod v, v / 45)

/-- `k` stages in series, the characters in stage order (R143). -/
def pipeline : Nat → Nat → List Byte
  | 0, _ => []
  | k + 1, v => (stage v).1 :: pipeline k (stage v).2

end Sys2Proof.Machine
end

