-- ==== Sys2Proof/WellFormed.lean ====
section
/-! DEFINITION. The producer's side of rule R87: which instructions are the canonical form of their operation. -/

namespace Sys2Proof

/-- "A producer should drive zero" on the ignored bits (R87). The machine accepts and runs ill-formed instructions too, with
the same effect: every input word is legal (R84, R87). All 256 values of `data` are legal on both ports (R88: an illegal
character code is an operand that raises an error, not an ill-formed instruction). -/
def Instr.wellFormed : Instr → Bool
  | .encReset g => g == 0
  | .encData _ => true
  | .encEnd g => g == 0
  | .decReset g => g == 0
  | .decChar _ => true
  | .decEnd g => g == 0

end Sys2Proof
end

