-- ==== Sys2Proof/Decode.lean ====
section
/-! DEFINITION. Decoding of input event words (R82, R84), the encoder, and the 11-bit table words of the opcode table. -/

namespace Sys2Proof

/-- `W[9]`, `rst` (R82). -/
def wordRst (w : EventWord) : Bool := w.getLsbD 9

/-- `W[8]`, `kind` (R82). -/
def wordKind (w : EventWord) : Bool := w.getLsbD 8

/-- `W[7:0]`, `data` (R82). -/
def wordData (w : EventWord) : Byte := w.extractLsb' 0 8

/-- `W[8:0]`, the bits a RESET word ignores (R87). -/
def wordBelowRst (w : EventWord) : BitVec 9 := w.extractLsb' 0 9

/-- Decoding, total on all 1024 words of each port (R82, R84): `rst = 1` selects RESET whatever the other bits hold,
`rst = 0, kind = 0` DATA, `rst = 0, kind = 1` END. -/
def decodeWord (p : Port) (w : EventWord) : Instr :=
  match p, wordRst w, wordKind w with
  | .enc, true, _ => .encReset (wordBelowRst w)
  | .enc, false, false => .encData (wordData w)
  | .enc, false, true => .encEnd (wordData w)
  | .dec, true, _ => .decReset (wordBelowRst w)
  | .dec, false, false => .decChar (wordData w)
  | .dec, false, true => .decEnd (wordData w)

/-- The input event word of an instruction, written from the format table of R82. -/
def encode : Instr → PortWord
  | .encReset g => ⟨.enc, 1#1 ++ g⟩
  | .encData d => ⟨.enc, 0b00#2 ++ d⟩
  | .encEnd g => ⟨.enc, 0b01#2 ++ g⟩
  | .decReset g => ⟨.dec, 1#1 ++ g⟩
  | .decChar d => ⟨.dec, 0b00#2 ++ d⟩
  | .decEnd g => ⟨.dec, 0b01#2 ++ g⟩

/-- The bit by which the opcode table alone tells the two ports apart: `T[10]`, 0 for ENC, 1 for DEC (R84). -/
def portBit : Port → BitVec 1
  | .enc => 0#1
  | .dec => 1#1

/-- The 11-bit table word `T[10:0] = (unit, W[9:0])` of a port word (R84). -/
def tableWordOf (e : PortWord) : BitVec 11 := portBit e.port ++ e.word

/-- The port word that a table word stands for: bit 10 chooses the port and is no bit of the event word (R84). -/
def portWordOf (t : BitVec 11) : PortWord :=
  ⟨if t.getLsbD 10 then .dec else .enc, t.extractLsb' 0 10⟩

/-- A number read as a table word of at most `nbits` bits, rejected by name if it has a bit above bit 10 (log entry 9). -/
def tableWord (nbits w : Nat) : Except DecodeReject PortWord :=
  if w < 2048 then
    if w < 2 ^ nbits then .ok (portWordOf (BitVec.ofNat 11 w)) else .error .notATableWord
  else .error .notATableWord

/-- The instruction of an opcode-table word numbered as spec/opcode_table.json numbers it. -/
def decodeTableWord (nbits w : Nat) : Option Instr :=
  match tableWord nbits w with
  | .ok e => some (decodeWord e.port e.word)
  | .error _ => none

/-- The table match and table mask of an instruction's row (R84, last two columns but one). -/
def rowPattern : Instr → BitVec 11 × BitVec 11
  | .encReset _ => (0x200#11, 0x600#11)
  | .encData _ => (0x000#11, 0x700#11)
  | .encEnd _ => (0x100#11, 0x700#11)
  | .decReset _ => (0x600#11, 0x600#11)
  | .decChar _ => (0x400#11, 0x700#11)
  | .decEnd _ => (0x500#11, 0x700#11)

end Sys2Proof
end

