-- ==== Sys2Proof/Machine/Ops.lean ====
section
/-! DEFINITION. The shared operations: output streams, register reads, raising an error and coming back from one, and taking
the next presented event. -/

namespace Sys2Proof.Machine

/-! ### Output streams (R14, R57, R66) -/

/-- `emit`: the events follow, in the order written, all events emitted before (R14, R66). -/
def OutPort.emit {α : Type} (l : List α) (p : OutPort α) : OutPort α :=
  { p with inFlight := p.inFlight ++ l }

/-- The first `n` elements of a list, or all of them. -/
def deliveredPrefix {α : Type} : List α → Nat → List α
  | [], _ => []
  | _ :: _, 0 => []
  | a :: l, n + 1 => a :: deliveredPrefix l n

/-- What a RESET does to a block's output: of the undelivered events the first `k` leave the port, the rest are discarded
(R222). -/
def OutPort.flush {α : Type} (k : Nat) (p : OutPort α) : OutPort α :=
  { delivered := p.delivered ++ deliveredPrefix p.inFlight k, inFlight := [], draws := p.draws + 1 }

/-- The events of a port in the order the consumer sees them, if no RESET comes. -/
def OutPort.stream {α : Type} (p : OutPort α) : List α := p.delivered ++ p.inFlight

def State.setEnc (e : EncState) (s : State) : State := { s with enc := e }
def State.setDec (d : DecState) (s : State) : State := { s with dec := d }
def State.emitEnc (l : List EncOut) (s : State) : State := { s with encOut := s.encOut.emit l }
def State.emitDec (l : List DecOut) (s : State) : State := { s with decOut := s.decOut.emit l }

/-- ENC's output at an ENC.RESET; the number delivered is a free value (R222, U6; log entry 4). -/
def State.flushEnc (s : State) : State := { s with encOut := s.encOut.flush (Config.encDelivered s.encOut.draws) }

/-- DEC's output at a DEC.RESET. -/
def State.flushDec (s : State) : State := { s with decOut := s.decOut.flush (Config.decDelivered s.decOut.draws) }

/-! ### Guards and register reads -/

/-- Whether the block of a port has had its first RESET. -/
def State.startedAt (s : State) : Port → Bool
  | .enc => s.enc.started
  | .dec => s.dec.started

/-- Before its first RESET a block accepts no event but RESET (R220, U10). -/
def whenStarted (p : Port) (s : State) (k : Result) : Result :=
  if s.startedAt p then k else .refused (.beforeReset p)

/-- A read of a register that may hold no value: the unguarded read of one is a fault, as the spec asks (R35, D19, U5). -/
def readReg {α : Type} (r : Register) (v : Option α) (k : α → Result) : Result :=
  match v with
  | some a => k a
  | none => .fault (.unwrittenRead r)

/-- `MemRead(ROM_A, a)` with the address in a digit register (R13, R67). -/
def readRomA (a : Digit) (k : Byte → Result) : Result :=
  match romA a with
  | some c => k c
  | none => .fault (.romAddress a)

/-! ### Raising an error, and coming back (R14, R197, R200) -/

/-- The report of an error: one ERROR event (R197). -/
def State.reportError (code : ErrCode) (c : Byte) (p : Nat) (s : State) : State :=
  s.emitDec [.error code c p]

/-- `raise X(c, p)`: emit `ERROR(code(X), c, p)` and enter the failed state, leaving every other register (R14, R197). -/
def State.raiseError (code : ErrCode) (c : Byte) (p : Nat) (s : State) : State :=
  let r := s.reportError code c p
  r.setDec { r.dec with failed := true }

/-- The way back: DEC is at the start of a message, whatever the held digits are (R162 last three lines, R200). -/
def State.startDecMessage (s : State) : State :=
  s.setDec { s.dec with cnt := 0#2, pos := 0, failed := false }

/-! ### Taking the next presented event (R65, R82) -/

/-- The next presented event, decoded by its port, and the state once it is accepted. -/
def State.fetch (s : State) : Option (Instr × State) :=
  match s.pending with
  | [] => none
  | e :: rest => some (decodeWord e.port e.word, { s with pending := rest })

end Sys2Proof.Machine
end

