-- ==== Sys2Proof/Machine/Decoder.lean ====
section
/-! DEFINITION. The operations of `base45_decoder`: DEC.RESET, DEC.CHAR, DEC.END (42_decoder_ops.md). -/

namespace Sys2Proof.Machine

/-- DEC.RESET (R160, R221, R222): accepted in every state. -/
def execDecReset (_ignored : BitVec 9) (s : State) : Result :=
  .next (s.flushDec.setDec .afterReset)

/-- A valid character with digit `d` (R161, after the look-up). The last case is `dec.cnt = 2`; the value 3 never occurs and
falls under the pseudocode's `else` (log entry 6). -/
def acceptDigit (d : Digit) (s : State) : Result :=
  if s.dec.cnt = 0#2 then .next (s.setDec (s.dec.holdFirst d))
  else if s.dec.cnt = 1#2 then .next (s.setDec (s.dec.holdSecond d))
  else
    readReg .decD1 s.dec.d1 fun d1 =>
      readReg .decD0 s.dec.d0 fun d0 =>
        .next ((s.emitDec ((groupBytes (decGroupValue d d1 d0)).map .byte)).setDec s.dec.closeGroup)

/-- DEC.CHAR (R161): nothing while draining, else one look-up, which decides between the error and the digit (R164). -/
def execDecChar (data : Byte) (s : State) : Result :=
  whenStarted .dec s <|
    if s.dec.failed then .next s
    else
      match romI data with
      | none => .next (s.raiseError .invalidCharacter data s.dec.pos)
      | some d => acceptDigit d s

/-- DEC.END (R162). The last case of the held characters is `dec.cnt = 1`; the value 3 never occurs and falls under the
pseudocode's `else` (log entry 6). -/
def execDecEnd (_ignored : BitVec 8) (s : State) : Result :=
  whenStarted .dec s <|
    if s.dec.failed then .next s.startDecMessage
    else if s.dec.cnt = 0#2 then .next (s.emitDec [.done]).startDecMessage
    else if s.dec.cnt = 2#2 then
      readReg .decD1 s.dec.d1 fun d1 =>
        readReg .decD0 s.dec.d0 fun d0 =>
          .next (s.emitDec [.byte (tailByte (decTailValue d1 d0)), .done]).startDecMessage
    else
      readReg .decD0 s.dec.d0 fun d0 =>
        readRomA d0 fun c =>
          .next (s.reportError .danglingCharacter c (s.dec.pos - 1)).startDecMessage

end Sys2Proof.Machine
end

