-- ==== Sys2Proof/Machine/Encoder.lean ====
section
/-! DEFINITION. The operations of `base45_encoder`: ENC.RESET, ENC.DATA, ENC.END (41_encoder_ops.md). -/

namespace Sys2Proof.Machine

/-- ENC.RESET (R140, R221, R222): accepted in every state. -/
def execEncReset (_ignored : BitVec 9) (s : State) : Result :=
  .next (s.flushEnc.setEnc .afterReset)

/-- ENC.DATA (R141). -/
def execEncData (data : Byte) (s : State) : Result :=
  whenStarted .enc s <|
    if s.enc.held then
      readReg .encHi s.enc.hi fun hi =>
        .next ((s.emitEnc ((pairChars (encPairValue hi data)).map .char)).setEnc s.enc.release)
    else .next (s.setEnc (s.enc.hold data))

/-- ENC.END (R142). -/
def execEncEnd (_ignored : BitVec 8) (s : State) : Result :=
  whenStarted .enc s <|
    if s.enc.held then
      readReg .encHi s.enc.hi fun hi =>
        .next ((s.emitEnc ((tailChars (encTailValue hi)).map .char ++ [.done])).setEnc s.enc.release)
    else .next ((s.emitEnc [.done]).setEnc s.enc.release)

end Sys2Proof.Machine
end

