-- ==== Sys2Proof/Machine/Dispatch.lean ====
section
/-! DEFINITION. One arm per operation (R84). -/

namespace Sys2Proof.Machine

def exec (i : Instr) (s : State) : Host.Outcome State Fault Refusal :=
  match i with
  | .encReset g => Sys2Proof.Machine.execEncReset g s
  | .encData d => Sys2Proof.Machine.execEncData d s
  | .encEnd g => Sys2Proof.Machine.execEncEnd g s
  | .decReset g => Sys2Proof.Machine.execDecReset g s
  | .decChar d => Sys2Proof.Machine.execDecChar d s
  | .decEnd g => Sys2Proof.Machine.execDecEnd g s

end Sys2Proof.Machine
end

