-- ==== Sys2Proof/Machine/Step.lean ====
section
/-! DEFINITION. One step: the next presented event is accepted and run (R20, R65); with none presented the blocks hold their
state (R206). -/

namespace Sys2Proof.Machine

/-- One step of the machine. -/
def step (s : State) : Host.Outcome State Fault Refusal :=
  match s.fetch with
  | none => .next s
  | some (i, s') => exec i s'

/-- `s` with the event of an opcode-table word presented as the very next one; a number that is no table word presents
nothing (log entries 3 and 9). -/
def State.withFetchWord (s : State) (nbits w : Nat) : State :=
  match tableWord nbits w with
  | .ok e => { s with pending := e :: s.pending }
  | .error _ => s

end Sys2Proof.Machine
end

