-- ==== Sys2Proof/Machine/OutWords.lean ====
section
/-! DEFINITION. The words that output events are at the ports (R83). -/

namespace Sys2Proof.Machine

/-- `err_code[1:0]` (R190). -/
def ErrCode.code : ErrCode → BitVec 2
  | .invalidCharacter => 1
  | .danglingCharacter => 2

/-- ENC's output word `O[8:0] = (kind, char)`; DONE carries 0x00 (R83). -/
def encOutWord : EncOut → BitVec 9
  | .char c => 0#1 ++ c
  | .done => 1#1 ++ 0x00#8

/-- DEC's output word `O[9:0] = (kind, data)` with its two side-band fields (R83). -/
structure DecOutWord (posW : Nat) where
  word : BitVec 10
  errCode : BitVec 2
  errPos : BitVec posW
  deriving DecidableEq, Repr

/-- DEC's output word; the side-band fields are 0 outside ERROR. A position that does not fit `POS_W` bits belongs to a
message outside the contract and has no word (R83, R235; log entry 5). -/
def decOutWord (posW : Nat) : DecOut → Option (DecOutWord posW)
  | .byte b => some ⟨0b00#2 ++ b, 0, 0⟩
  | .done => some ⟨0b01#2 ++ 0x00#8, 0, 0⟩
  | .error k c p => if p < 2 ^ posW then some ⟨0b10#2 ++ c, k.code, BitVec.ofNat posW p⟩ else none

end Sys2Proof.Machine
end

