-- ==== Sys2Proof/Machine/Reference.lean ====
section
/-! DEFINITION. The whole-message functions `encode` and `decode` (40_reference_functions.md), written from their own rules and
not from the machine: no definition of the machine is used here but the two constant tables. -/

namespace Sys2Proof.Machine

/-- `digits(v, k)`: the `k` least significant base-45 digits of `v`, least significant first (R115). -/
def digits (v : Nat) : Nat → List Nat
  | 0 => []
  | k + 1 => v % radix :: digits (v / radix) k

/-- `horner(ds)`: the value of digits listed least significant first (R115). -/
def horner : List Nat → Nat
  | [] => 0
  | d :: ds => horner ds * radix + d

/-- `ALPHABET[d]` (R51). -/
def charOf (d : Nat) : Byte := alphabet.getD d 0

/-- `enc_pair(hi, lo)` (R117). -/
def encPair (hi lo : Byte) : List Byte := (digits (hi.toNat * 256 + lo.toNat) 3).map charOf

/-- `enc_tail(b)` (R119). -/
def encTail (b : Byte) : List Byte := (digits b.toNat 2).map charOf

/-- `encode` (R118): the pairs from the start of the message, then the tail if the length is odd. -/
def encodeMsg : List Byte → List Byte
  | [] => []
  | [b] => encTail b
  | hi :: lo :: rest => encPair hi lo ++ encodeMsg rest

/-- The result of `decode` (R121): `Ok(bytes)` or `Err(kind, c, p, partial)`. -/
inductive DecodeResult where
  | ok (bytes : List Byte)
  | err (kind : ErrCode) (c : Byte) (p : Nat) (before : List Byte)
  deriving DecidableEq, Repr

/-- `dec_group(a, m, z)`, the last character's digit the most significant (R122; 90_conflicts.md C1). -/
def decGroup (a m z : Nat) : List Byte :=
  let v := horner [a, m, z]
  [BitVec.ofNat 8 ((v >>> 8) &&& 0xFF), BitVec.ofNat 8 (v &&& 0xFF)]

/-- `dec_tail(a, z)` (R123; 90_conflicts.md C1). -/
def decTail (a z : Nat) : List Byte :=
  let v := horner [a, z]
  [BitVec.ofNat 8 (v &&& 0xFF)]

/-- The bytes of the group that the digit `z` at position `p` completes; `seen` lists the earlier characters with their
digits, the latest first (R124, the `if p mod 3 = 2` of its pseudocode). -/
def groupAt (p : Nat) (seen : List (Byte × Nat)) (z : Nat) : List Byte :=
  match decide (p % 3 = 2), seen with
  | true, (_, m) :: (_, a) :: _ => decGroup a m z
  | _, _ => []

/-- The end of the text after `n` characters (R124, the last five lines of its pseudocode). -/
def finishAt (n : Nat) (seen : List (Byte × Nat)) (out : List Byte) : DecodeResult :=
  match n % 3, seen with
  | 2, (_, z) :: (_, a) :: _ => .ok (out ++ decTail a z)
  | 1, (c, _) :: _ => .err .danglingCharacter c (n - 1) out
  | _, _ => .ok out

/-- The walk of R124's pseudocode over the positions in ascending order. -/
def decodeWalk (seen : List (Byte × Nat)) (out : List Byte) : List Byte → DecodeResult
  | [] => finishAt seen.length seen out
  | c :: rest =>
    match romI c with
    | none => .err .invalidCharacter c seen.length out
    | some x => decodeWalk ((c, x.toNat) :: seen) (out ++ groupAt seen.length seen x.toNat) rest

/-- `decode` (R124). -/
def decodeMsg (s : List Byte) : DecodeResult := decodeWalk [] [] s

/-- The digit of a valid character, or the InvalidCharacter error at its position (R125). -/
def lookUp (c : Byte) (p : Nat) (out : List Byte) (k : Nat → DecodeResult) : DecodeResult :=
  match romI c with
  | none => .err .invalidCharacter c p out
  | some d => k d.toNat

/-- `decode` told group by group, as R122, R123, R125, R126 and R127 tell it, from position `p` with the bytes `out` already
produced. -/
def decodeGroups (p : Nat) (out : List Byte) : List Byte → DecodeResult
  | [] => .ok out
  | [c] => lookUp c p out fun _ => .err .danglingCharacter c p out
  | [c, e] => lookUp c p out fun a => lookUp e (p + 1) out fun z => .ok (out ++ decTail a z)
  | c :: e :: f :: rest =>
    lookUp c p out fun a => lookUp e (p + 1) out fun m => lookUp f (p + 2) out fun z =>
      decodeGroups (p + 3) (out ++ decGroup a m z) rest

/-- The output events of a decoded message (R170). -/
def DecodeResult.events : DecodeResult → List DecOut
  | .ok bytes => bytes.map .byte ++ [.done]
  | .err kind c p before => before.map .byte ++ [.error kind c p]

/-- What the consumer keeps of a decoded message: "callers must treat any error as total decode failure" (R199). -/
def DecodeResult.accepted : DecodeResult → Option (List Byte)
  | .ok bytes => some bytes
  | .err _ _ _ _ => none

end Sys2Proof.Machine
end

