-- ==== Sys2Proof/Machine/Programs.lean ====
section
/-! DEFINITION. Event sequences: the pseudo-operations of R93, the wiring of R172, runs, and the consumer of R199. -/

namespace Sys2Proof.Machine

/-- `ENCODE [b0, ..., b(n-1)]` (R93). -/
def encodeProgram (b : List Byte) : List Instr := b.map .encData ++ [.encEnd 0]

/-- `DECODE "c0...c(n-1)"` (R93). -/
def decodeProgram (s : List Byte) : List Instr := s.map .decChar ++ [.decEnd 0]

/-- ENC's output event as DEC's input event: CHAR as DEC.CHAR, DONE as DEC.END (R68, R172). -/
def wire : EncOut → Instr
  | .char c => .decChar c
  | .done => .decEnd 0

/-- The events of a list presented after those already presented. -/
def State.present (l : List Instr) (s : State) : State := { s with pending := s.pending ++ l.map encode }

/-- `k` steps. -/
def run : Nat → State → Result
  | 0, s => .next s
  | k + 1, s =>
    match step s with
    | .next t => run k t
    | .fault r => .fault r
    | .refused r => .refused r

/-- The operations of a list, one after the other. -/
def execAll : List Instr → State → Result
  | [], s => .next s
  | i :: l, s =>
    match exec i s with
    | .next t => execAll l t
    | .fault r => .fault r
    | .refused r => .refused r

/-- The consumer of DEC's output (R199, R232): the bytes of a message count once its DONE is seen and are dropped at its
ERROR. One verdict per terminator, and nothing for bytes that no terminator follows. DESIGN CHOICE (log entry 16): this consumer
does not see DEC.RESET, so bytes delivered of a message that DEC.RESET cut are joined to those of the next message; the spec speaks
only of a consumer that sees the reset (R222). -/
def consume (acc : List Byte) : List DecOut → List (Option (List Byte))
  | [] => []
  | .byte b :: l => consume (acc ++ [b]) l
  | .done :: l => some acc :: consume [] l
  | .error _ _ _ :: l => none :: consume [] l

end Sys2Proof.Machine
end

