-- ==== Sys2Proof/Safety.lean ====
section
/-! DEFINITION. What a reachable and a safe state are, in the terms claims use. -/

namespace Sys2Proof.Machine

/-- ENC's register invariant: `enc.hi` holds a value while `enc.have = 1` (R21, R35). -/
abbrev EncState.Inv (e : EncState) : Prop :=
  e.started = true → e.held = true → e.hi.isSome = true

/-- DEC's register invariant (R35, R36 (a), (b), (c)). -/
abbrev DecState.Inv (x : DecState) : Prop :=
  x.started = true →
    x.cnt ≠ 3#2 ∧ (x.failed = false → x.cnt.toNat = x.pos % 3) ∧
    (∀ d ∈ x.d0, d.toNat ≤ 44) ∧ (∀ d ∈ x.d1, d.toNat ≤ 44) ∧
    (1 ≤ x.cnt.toNat → x.d0.isSome = true) ∧ (x.cnt = 2#2 → x.d1.isSome = true)

/-- The machine's register invariant. A block before its first RESET is not constrained (R220). -/
structure State.Inv (s : State) : Prop where
  enc : s.enc.Inv
  dec : s.dec.Inv

/-- Both blocks have had their first RESET (R220). -/
abbrev State.Started (s : State) : Prop := s.enc.started = true ∧ s.dec.started = true

/-- ENC is at the start of a message (R146). -/
abbrev EncState.AtStart (e : EncState) : Prop := e.started = true ∧ e.held = false

/-- DEC is at the start of a message (R170). -/
abbrev DecState.AtStart (x : DecState) : Prop :=
  x.started = true ∧ x.cnt = 0#2 ∧ x.pos = 0 ∧ x.failed = false

/-- ENC emits characters of the alphabet only (R89, R130). -/
def EncOut.legal : EncOut → Bool
  | .char c => alphabet.contains c
  | .done => true

/-- An InvalidCharacter report carries a character outside the alphabet, a DanglingCharacter report one of it (R190). -/
def DecOut.legal : DecOut → Bool
  | .byte _ => true
  | .done => true
  | .error .invalidCharacter c _ => (romI c).isNone
  | .error .danglingCharacter c _ => (romI c).isSome

/-- Every output event of the machine is one that R83 and R190 allow. -/
structure State.OutLegal (s : State) : Prop where
  enc : ∀ e ∈ s.encOut.stream, e.legal = true
  dec : ∀ e ∈ s.decOut.stream, e.legal = true

/-- The operation, accepted in the state, is one that reports the error `k` with character `c` at position `p` (R190): an
InvalidCharacter by DEC.CHAR, a DanglingCharacter by DEC.END with one digit held. -/
abbrev State.Raises (s : State) (i : Instr) (k : ErrCode) (c : Byte) (p : Nat) : Prop :=
  s.dec.failed = false ∧
    ((i = .decChar c ∧ k = .invalidCharacter ∧ romI c = none ∧ s.dec.pos = p) ∨
     (∃ g d, i = .decEnd g ∧ k = .danglingCharacter ∧ s.dec.cnt = 1#2 ∧ s.dec.d0 = some d ∧
        alphabet[d.toNat]? = some c ∧ s.dec.pos = p + 1))

/-- A safe step is one with a next state. -/
abbrev State.SafeStep (s : State) : Prop := ∃ t, step s = .next t

/-- Every position the machine could report fits `POS_W` bits (R235). -/
abbrev State.PosInRange (posW : Nat) (s : State) : Prop := s.dec.pos < 2 ^ posW

end Sys2Proof.Machine
end

