-- ==== Sys2Proof/Certificates/Slice0/Obligations.lean ====
section
/-! DEFINITION. The statements for the provers. Each docstring names the rule it formalises and, where a clause rests on a
choice of the model, the log entry. -/

open Sys2Proof Sys2Proof.Machine

/-! ### Decoding, encoding, stepping -/

/-- R65, R82: with an event presented, a step accepts it, decodes it by its port, and is exec of the instruction at the state in
which the event is no longer presented. The list of presented events is the model's (log entry 3). -/
def Obligations.StepRunsDecodedEvent : Prop :=
  ∀ (s : State) (e : PortWord) (rest : List PortWord), s.pending = e :: rest →
    step s = exec (decodeWord e.port e.word) { s with pending := rest }

/-- R206: with no event presented the blocks hold their state. -/
def Obligations.IdleStepHoldsState : Prop :=
  ∀ s : State, s.pending = [] → step s = .next s

/-- R84: an opcode-table word decodes, and presented as the next event it is the one the next step runs. That a number above the
11 bits is rejected is the model's choice (log entry 9). -/
def Obligations.TableWordIsRunNext : Prop :=
  (∀ (s : State) (nbits w : Nat), w < 2048 → w < 2 ^ nbits →
    ∃ i, decodeTableWord nbits w = some i ∧ step (s.withFetchWord nbits w) = exec i s) ∧
  (∀ nbits w : Nat, 2048 ≤ w → decodeTableWord nbits w = none)

/-- R82: decoding the encoding of any instruction gives it back, and encoding what a word decodes to gives the word back: no bit
is dropped, the ignored ones among them (log entry 7). -/
def Obligations.DecodeEncodeRoundTrip : Prop :=
  (∀ i : Instr, decodeWord (encode i).port (encode i).word = i) ∧
  (∀ (p : Port) (w : EventWord), encode (decodeWord p w) = ⟨p, w⟩)

/-- R84: the rows of the operation map, by match and mask, over the port words and over the table words. -/
def Obligations.OperationMapSelectsRow : Prop :=
  (∀ w : EventWord,
    ((w &&& 0x200#10 = 0x200#10) ↔ ∃ g, decodeWord .enc w = .encReset g) ∧
    ((w &&& 0x300#10 = 0x000#10) ↔ ∃ d, decodeWord .enc w = .encData d) ∧
    ((w &&& 0x300#10 = 0x100#10) ↔ ∃ g, decodeWord .enc w = .encEnd g) ∧
    ((w &&& 0x200#10 = 0x200#10) ↔ ∃ g, decodeWord .dec w = .decReset g) ∧
    ((w &&& 0x300#10 = 0x000#10) ↔ ∃ d, decodeWord .dec w = .decChar d) ∧
    ((w &&& 0x300#10 = 0x100#10) ↔ ∃ g, decodeWord .dec w = .decEnd g)) ∧
  (∀ w : Nat, w < 2048 →
    ((w &&& 0x600 = 0x200) ↔ ∃ g, decodeTableWord 11 w = some (.encReset g)) ∧
    ((w &&& 0x700 = 0x000) ↔ ∃ d, decodeTableWord 11 w = some (.encData d)) ∧
    ((w &&& 0x700 = 0x100) ↔ ∃ g, decodeTableWord 11 w = some (.encEnd g)) ∧
    ((w &&& 0x600 = 0x600) ↔ ∃ g, decodeTableWord 11 w = some (.decReset g)) ∧
    ((w &&& 0x700 = 0x400) ↔ ∃ d, decodeTableWord 11 w = some (.decChar d)) ∧
    ((w &&& 0x700 = 0x500) ↔ ∃ g, decodeTableWord 11 w = some (.decEnd g)))

/-- R82: words written out from the format table decode to the operations they stand for (sanity). -/
def Obligations.WrittenWordsDecode : Prop :=
  decodeWord .enc 0b1000000000#10 = .encReset 0 ∧ decodeWord .enc 0b0001100001#10 = .encData 0x61 ∧
  decodeWord .enc 0b0100000000#10 = .encEnd 0 ∧ decodeWord .dec 0b1000000000#10 = .decReset 0 ∧
  decodeWord .dec 0b0001000011#10 = .decChar 0x43 ∧ decodeWord .dec 0b0100000000#10 = .decEnd 0

/-- R87: the bits below `rst` of a RESET word and the bits below `kind` of an END word have no effect on state or output; a
producer should drive zero on them (`wellFormed`, log entry 7); and no input word traps: in a state of the invariant with both
blocks started every word is accepted. -/
def Obligations.IgnoredBitsHaveNoEffect : Prop :=
  ∀ (s : State) (p : Port) (w w' : EventWord),
    (w &&& 0x200#10 = 0x200#10 → w' &&& 0x200#10 = 0x200#10 →
      exec (decodeWord p w) s = exec (decodeWord p w') s) ∧
    (w &&& 0x300#10 = 0x100#10 → w' &&& 0x300#10 = 0x100#10 →
      exec (decodeWord p w) s = exec (decodeWord p w') s) ∧
    (w &&& 0x200#10 = 0x200#10 → ((decodeWord p w).wellFormed = true ↔ w = 0x200#10)) ∧
    (w &&& 0x300#10 = 0x100#10 → ((decodeWord p w).wellFormed = true ↔ w = 0x100#10)) ∧
    (s.Inv → s.Started → ∃ t, exec (decodeWord p w) s = .next t)

/-! ### Tables and arithmetic -/

/-- R51, R53: ROM_A holds, in order, the 45 distinct characters of the alphabet string, each as its ASCII code. That the codes
are ASCII is R52's, which the spec marks as general knowledge (log entry 8). -/
def Obligations.AlphabetIsTheWrittenString : Prop :=
  alphabet =
    "0123456789ABCDEFGHIJKLMNOPQRSTUVWXYZ $%*+-./:".toList.map (fun g => BitVec.ofNat 8 g.toNat) ∧
  alphabet.length = 45 ∧ alphabet.Nodup

/-- R54, R223: ROM_I, written from R55's table, is the inverse of ROM_A, written from R52's: INDEX(c) is the digit whose
character is `c`, and nothing if there is none; 45 codes have a digit and 211 have none. -/
def Obligations.RomTablesAreInverse : Prop :=
  alphabet.length = 45 ∧ alphabet.Nodup ∧
  (∀ (c : Byte) (d : Digit), romI c = some d ↔ alphabet[d.toNat]? = some c) ∧
  ((List.range 256).filter fun n => (romI (BitVec.ofNat 8 n)).isSome).length = 45 ∧
  ((List.range 256).filter fun n => (romI (BitVec.ofNat 8 n)).isNone).length = 211

/-- R115: `digits` and `horner` are inverse to each other. -/
def Obligations.DigitsAndHornerInvert : Prop :=
  (∀ k v : Nat, v < 45 ^ k → horner (digits v k) = v) ∧
  (∀ ds : List Nat, (∀ d ∈ ds, d < 45) → digits (horner ds) ds.length = ds)

/-- R112, R113: the digits of a pair and of a tail byte, and their bounds. -/
def Obligations.EncoderDigitBounds : Prop :=
  (∀ v : Nat, v ≤ 65535 →
    digits v 3 = [v % 45, v / 45 % 45, v / 2025] ∧ v / 45 ≤ 1456 ∧ v / 2025 ≤ 32 ∧ v / 91125 = 0 ∧
    v = v % 45 + 45 * (v / 45 % 45) + 2025 * (v / 2025)) ∧
  (∀ v : Nat, v ≤ 255 →
    digits v 2 = [v % 45, v / 45] ∧ v / 45 ≤ 5 ∧ v / 2025 = 0 ∧ v = v % 45 + 45 * (v / 45)) ∧
  digits 0xFFFF 3 = [15, 16, 32] ∧ digits 0xFF 2 = [30, 5]

/-- R143: the three stages in series give the characters of a pair, the first two those of a tail. -/
def Obligations.PipelineGivesGroupCharacters : Prop :=
  ∀ hi data : Byte,
    pairChars (encPairValue hi data) = pipeline 3 (hi.toNat * 256 + data.toNat) ∧
    tailChars (encTailValue hi) = pipeline 2 hi.toNat

/-- R86, R114: the decoder's working values are exact at their widths, and the bytes taken from them are their low 16 and low 8
bits. -/
def Obligations.DecoderValuesTruncate : Prop :=
  ∀ d d1 d0 : Digit, d.toNat ≤ 44 → d1.toNat ≤ 44 → d0.toNat ≤ 44 →
    (decGroupValue d d1 d0).toNat = d0.toNat + 45 * d1.toNat + 2025 * d.toNat ∧
    (decGroupValue d d1 d0).toNat ≤ 91124 ∧
    (groupBytes (decGroupValue d d1 d0)).map BitVec.toNat =
      [(decGroupValue d d1 d0).toNat / 256 % 256, (decGroupValue d d1 d0).toNat % 256] ∧
    (decTailValue d1 d0).toNat = d1.toNat * 45 + d0.toNat ∧ (decTailValue d1 d0).toNat ≤ 2024 ∧
    (tailByte (decTailValue d1 d0)).toNat = (d1.toNat * 45 + d0.toNat) % 256

/-! ### The encoder's operations -/

/-- R140, R222: ENC.RESET. It is accepted in every state; of the undelivered output some prefix is delivered (which one is a
free value, log entry 4), the rest is discarded. -/
def Obligations.EncResetStartsMessage : Prop :=
  ∀ (g : BitVec 9) (s : State),
    decodeWord .enc (1#1 ++ g) = .encReset g ∧
    ∃ t, exec (.encReset g) s = .next t ∧
      t.enc.started = true ∧ t.enc.held = false ∧ t.enc.hi = none ∧
      t.encOut.inFlight = [] ∧
      (∃ q, q <+: s.encOut.inFlight ∧ t.encOut.delivered = s.encOut.delivered ++ q) ∧
      t.dec = s.dec ∧ t.decOut = s.decOut ∧ t.pending = s.pending

/-- R141: ENC.DATA holds the first byte of a pair and emits nothing; the second byte gives the pair's three characters. -/
def Obligations.EncDataHoldsOrCompletesPair : Prop :=
  ∀ (data : Byte) (s : State), s.enc.started = true →
    decodeWord .enc (0b00#2 ++ data) = .encData data ∧
    (s.enc.held = false →
      ∃ t, exec (.encData data) s = .next t ∧
        t.enc = { s.enc with held := true, hi := some data } ∧ t.encOut = s.encOut ∧
        t.dec = s.dec ∧ t.decOut = s.decOut ∧ t.pending = s.pending) ∧
    (∀ hi : Byte, s.enc.held = true → s.enc.hi = some hi →
      ∃ t c0 c1 c2, exec (.encData data) s = .next t ∧
        alphabet[(hi.toNat * 256 + data.toNat) % 45]? = some c0 ∧
        alphabet[(hi.toNat * 256 + data.toNat) / 45 % 45]? = some c1 ∧
        alphabet[(hi.toNat * 256 + data.toNat) / 2025 % 45]? = some c2 ∧
        t.encOut = { s.encOut with inFlight := s.encOut.inFlight ++ [.char c0, .char c1, .char c2] } ∧
        t.enc = { s.enc with held := false } ∧
        t.dec = s.dec ∧ t.decOut = s.decOut ∧ t.pending = s.pending)

/-- R142: ENC.END emits the two characters of a held byte, then DONE; the block is at the start of a message. -/
def Obligations.EncEndClosesMessage : Prop :=
  ∀ (g : BitVec 8) (s : State), s.enc.started = true →
    decodeWord .enc (0b01#2 ++ g) = .encEnd g ∧
    (s.enc.held = false →
      ∃ t, exec (.encEnd g) s = .next t ∧ t.enc = s.enc ∧
        t.encOut = { s.encOut with inFlight := s.encOut.inFlight ++ [.done] } ∧
        t.dec = s.dec ∧ t.decOut = s.decOut ∧ t.pending = s.pending) ∧
    (∀ hi : Byte, s.enc.held = true → s.enc.hi = some hi →
      ∃ t c0 c1, exec (.encEnd g) s = .next t ∧
        alphabet[hi.toNat % 45]? = some c0 ∧ alphabet[hi.toNat / 45 % 45]? = some c1 ∧
        t.encOut = { s.encOut with inFlight := s.encOut.inFlight ++ [.char c0, .char c1, .done] } ∧
        t.enc = { s.enc with held := false } ∧
        t.dec = s.dec ∧ t.decOut = s.decOut ∧ t.pending = s.pending)

/-! ### The decoder's operations -/

/-- R160, R222: DEC.RESET. Accepted in every state; the delivered prefix is a free value (log entry 4). -/
def Obligations.DecResetStartsMessage : Prop :=
  ∀ (g : BitVec 9) (s : State),
    decodeWord .dec (1#1 ++ g) = .decReset g ∧
    ∃ t, exec (.decReset g) s = .next t ∧
      t.dec.started = true ∧ t.dec.cnt = 0#2 ∧ t.dec.pos = 0 ∧ t.dec.failed = false ∧
      t.dec.d0 = none ∧ t.dec.d1 = none ∧
      t.decOut.inFlight = [] ∧
      (∃ q, q <+: s.decOut.inFlight ∧ t.decOut.delivered = s.decOut.delivered ++ q) ∧
      t.enc = s.enc ∧ t.encOut = s.encOut ∧ t.pending = s.pending

/-- R161: DEC.CHAR drains in the failed state, raises InvalidCharacter on a character outside the alphabet, holds a group's
first and second digit, and emits a group's two bytes at its third character, high byte first. -/
def Obligations.DecCharDecodesCharacter : Prop :=
  ∀ (data : Byte) (s : State), s.dec.started = true →
    decodeWord .dec (0b00#2 ++ data) = .decChar data ∧
    (s.dec.failed = true → exec (.decChar data) s = .next s) ∧
    (s.dec.failed = false → romI data = none →
      ∃ t, exec (.decChar data) s = .next t ∧ t.dec = { s.dec with failed := true } ∧
        t.decOut = { s.decOut with inFlight := s.decOut.inFlight ++ [.error .invalidCharacter data s.dec.pos] } ∧
        t.enc = s.enc ∧ t.encOut = s.encOut ∧ t.pending = s.pending) ∧
    (∀ d : Digit, s.dec.failed = false → romI data = some d → s.dec.cnt = 0#2 →
      ∃ t, exec (.decChar data) s = .next t ∧
        t.dec = { s.dec with d0 := some d, cnt := 1#2, pos := s.dec.pos + 1 } ∧ t.decOut = s.decOut ∧
        t.enc = s.enc ∧ t.encOut = s.encOut ∧ t.pending = s.pending) ∧
    (∀ d : Digit, s.dec.failed = false → romI data = some d → s.dec.cnt = 1#2 →
      ∃ t, exec (.decChar data) s = .next t ∧
        t.dec = { s.dec with d1 := some d, cnt := 2#2, pos := s.dec.pos + 1 } ∧ t.decOut = s.decOut ∧
        t.enc = s.enc ∧ t.encOut = s.encOut ∧ t.pending = s.pending) ∧
    (∀ d d1 d0 : Digit, s.dec.failed = false → romI data = some d → s.dec.cnt = 2#2 →
      s.dec.d1 = some d1 → s.dec.d0 = some d0 →
      ∃ t b1 b0, exec (.decChar data) s = .next t ∧
        b1.toNat = ((d.toNat * 45 + d1.toNat) * 45 + d0.toNat) / 256 % 256 ∧
        b0.toNat = ((d.toNat * 45 + d1.toNat) * 45 + d0.toNat) % 256 ∧
        t.decOut = { s.decOut with inFlight := s.decOut.inFlight ++ [.byte b1, .byte b0] } ∧
        t.dec = { s.dec with cnt := 0#2, pos := s.dec.pos + 1 } ∧
        t.enc = s.enc ∧ t.encOut = s.encOut ∧ t.pending = s.pending)

/-- R162: DEC.END ends the draining silently, emits DONE, or a tail byte and DONE, or reports DanglingCharacter; in every case
the block is at the start of a message and the held digits are left as they are. -/
def Obligations.DecEndClosesMessage : Prop :=
  ∀ (g : BitVec 8) (s : State), s.dec.started = true →
    decodeWord .dec (0b01#2 ++ g) = .decEnd g ∧
    (s.dec.failed = true →
      ∃ t, exec (.decEnd g) s = .next t ∧ t.decOut = s.decOut ∧
        t.dec = { s.dec with cnt := 0#2, pos := 0, failed := false } ∧
        t.enc = s.enc ∧ t.encOut = s.encOut ∧ t.pending = s.pending) ∧
    (s.dec.failed = false → s.dec.cnt = 0#2 →
      ∃ t, exec (.decEnd g) s = .next t ∧
        t.decOut = { s.decOut with inFlight := s.decOut.inFlight ++ [.done] } ∧
        t.dec = { s.dec with cnt := 0#2, pos := 0, failed := false } ∧
        t.enc = s.enc ∧ t.encOut = s.encOut ∧ t.pending = s.pending) ∧
    (∀ d1 d0 : Digit, s.dec.failed = false → s.dec.cnt = 2#2 → s.dec.d1 = some d1 → s.dec.d0 = some d0 →
      ∃ t b, exec (.decEnd g) s = .next t ∧ b.toNat = (d1.toNat * 45 + d0.toNat) % 256 ∧
        t.decOut = { s.decOut with inFlight := s.decOut.inFlight ++ [.byte b, .done] } ∧
        t.dec = { s.dec with cnt := 0#2, pos := 0, failed := false } ∧
        t.enc = s.enc ∧ t.encOut = s.encOut ∧ t.pending = s.pending) ∧
    (∀ (d0 : Digit) (p : Nat), s.dec.failed = false → s.dec.cnt = 1#2 → s.dec.d0 = some d0 → d0.toNat ≤ 44 →
      s.dec.pos = p + 1 →
      ∃ t c, exec (.decEnd g) s = .next t ∧ alphabet[d0.toNat]? = some c ∧
        t.decOut = { s.decOut with inFlight := s.decOut.inFlight ++ [.error .danglingCharacter c p] } ∧
        t.dec = { s.dec with cnt := 0#2, pos := 0, failed := false } ∧
        t.enc = s.enc ∧ t.encOut = s.encOut ∧ t.pending = s.pending)

/-! ### States no run reaches -/

/-- R35, D19, U5: an unguarded read of a register that holds no value is a fault. R67: so is a ROM_A address that does not exist,
which is the model's form of it (log entry 14). `StepKeepsInvariant` and `InvariantRulesOutFaults` say that no run meets either. -/
def Obligations.UnguardedReadsFault : Prop :=
  ∀ s : State,
    (s.enc.started = true → s.enc.held = true → s.enc.hi = none →
      (∀ data, exec (.encData data) s = .fault (.unwrittenRead .encHi)) ∧
      (∀ g, exec (.encEnd g) s = .fault (.unwrittenRead .encHi))) ∧
    (s.dec.started = true → s.dec.failed = false → s.dec.cnt = 2#2 → s.dec.d1 = none →
      (∀ data d, romI data = some d → exec (.decChar data) s = .fault (.unwrittenRead .decD1)) ∧
      (∀ g, exec (.decEnd g) s = .fault (.unwrittenRead .decD1))) ∧
    (∀ d1, s.dec.started = true → s.dec.failed = false → s.dec.cnt = 2#2 → s.dec.d1 = some d1 → s.dec.d0 = none →
      (∀ data d, romI data = some d → exec (.decChar data) s = .fault (.unwrittenRead .decD0)) ∧
      (∀ g, exec (.decEnd g) s = .fault (.unwrittenRead .decD0))) ∧
    (s.dec.started = true → s.dec.failed = false → s.dec.cnt = 1#2 → s.dec.d0 = none →
      ∀ g, exec (.decEnd g) s = .fault (.unwrittenRead .decD0)) ∧
    (∀ a : Digit, s.dec.started = true → s.dec.failed = false → s.dec.cnt = 1#2 → s.dec.d0 = some a → 45 ≤ a.toNat →
      ∀ g, exec (.decEnd g) s = .fault (.romAddress a))

/-- THE MODEL'S CHOICE (log entry 6), on the count 3 that never occurs: the pseudocode's last `else` takes it, so DEC.CHAR treats
it as 2 and DEC.END as 1. -/
def Obligations.CountThreeTakesLastBranch : Prop :=
  ∀ (s : State) (data : Byte) (d d1 d0 : Digit) (g : BitVec 8), s.dec.started = true → s.dec.failed = false →
    s.dec.cnt = 3#2 → romI data = some d → s.dec.d1 = some d1 → s.dec.d0 = some d0 → d0.toNat ≤ 44 →
    (∃ t b1 b0, exec (.decChar data) s = .next t ∧
      b1.toNat = ((d.toNat * 45 + d1.toNat) * 45 + d0.toNat) / 256 % 256 ∧
      b0.toNat = ((d.toNat * 45 + d1.toNat) * 45 + d0.toNat) % 256 ∧
      t.decOut = { s.decOut with inFlight := s.decOut.inFlight ++ [.byte b1, .byte b0] } ∧
      t.dec = { s.dec with cnt := 0#2, pos := s.dec.pos + 1 } ∧
      t.enc = s.enc ∧ t.encOut = s.encOut ∧ t.pending = s.pending) ∧
    (∃ t c, exec (.decEnd g) s = .next t ∧ alphabet[d0.toNat]? = some c ∧
      t.decOut = { s.decOut with inFlight := s.decOut.inFlight ++ [.error .danglingCharacter c (s.dec.pos - 1)] } ∧
      t.dec = { s.dec with cnt := 0#2, pos := 0, failed := false } ∧
      t.enc = s.enc ∧ t.encOut = s.encOut ∧ t.pending = s.pending)

/-- R220, U10: before its first RESET a block runs nothing but RESET, and RESET starts it. -/
def Obligations.BeforeResetOnlyResetRuns : Prop :=
  ∀ s : State,
    (s.enc.started = false →
      (∀ d, exec (.encData d) s = .refused (.beforeReset .enc)) ∧
      (∀ g, exec (.encEnd g) s = .refused (.beforeReset .enc)) ∧
      ∀ g, ∃ t, exec (.encReset g) s = .next t ∧ t.enc.AtStart) ∧
    (s.dec.started = false →
      (∀ d, exec (.decChar d) s = .refused (.beforeReset .dec)) ∧
      (∀ g, exec (.decEnd g) s = .refused (.beforeReset .dec)) ∧
      ∀ g, ∃ t, exec (.decReset g) s = .next t ∧ t.dec.AtStart)

/-! ### Whole-machine rules -/

/-- R34: the state after reset, and after ENC.RESET and DEC.RESET in any state. That the registers R34 calls unspecified hold no
value is R35's, R140's and R160's (log entry 1). -/
def Obligations.ResetStateValues : Prop :=
  (∀ g s t, exec (.encReset g) s = .next t → t.enc = ⟨true, false, none⟩) ∧
  (∀ g s t, exec (.decReset g) s = .next t → t.dec = ⟨true, 0#2, none, none, 0, false⟩) ∧
  State.reset.enc.held = false ∧ State.reset.dec.cnt = 0#2 ∧ State.reset.dec.pos = 0 ∧ State.reset.dec.failed = false ∧
  State.reset.enc.hi = none ∧ State.reset.dec.d0 = none ∧ State.reset.dec.d1 = none

/-- R36, R35: the invariant, the legality of the output, and both blocks started, hold right after reset; the invariant and the
legality hold at power-up. -/
def Obligations.InvariantHoldsAtReset : Prop :=
  State.reset.Inv ∧ State.reset.OutLegal ∧ State.reset.Started ∧ State.powerUp.Inv ∧ State.powerUp.OutLegal

/-- R35, R36 (a) to (c): every step keeps the register invariant. -/
def Obligations.StepKeepsInvariant : Prop :=
  ∀ s t : State, s.Inv → step s = .next t → t.Inv

/-- R35: in a state of the invariant no step reads a register that holds no value, and no step faults at all; it is refused only
where a block has not had its first RESET (R220). -/
def Obligations.InvariantRulesOutFaults : Prop :=
  ∀ s : State, s.Inv →
    (∀ r, step s ≠ .fault r) ∧ (∀ r, step s = .refused r → ∃ p, r = .beforeReset p ∧ s.startedAt p = false)

/-- R144, R165, R193: in a state of the invariant with both blocks started every operation has a next state, again such a state. -/
def Obligations.StartedBlocksAcceptEveryEvent : Prop :=
  ∀ (i : Instr) (s : State), s.Inv → s.Started → ∃ t, exec i s = .next t ∧ t.Inv ∧ t.Started

/-- R238, R144, R165: every presented event is accepted, in as many steps as events are presented. -/
def Obligations.PresentedEventsAreAllAccepted : Prop :=
  ∀ s : State, s.Inv → s.Started → ∃ t, run s.pending.length s = .next t ∧ t.pending = [] ∧ t.Inv ∧ t.Started

/-- R89, R130, R190: every step keeps ENC's output inside the alphabet and DEC's error reports true of the character they
carry. -/
def Obligations.StepKeepsOutputLegal : Prop :=
  ∀ s t : State, s.OutLegal → step s = .next t → t.OutLegal

/-- R57, R66: apart from RESET, an operation only appends to its block's output: nothing emitted is retracted or reordered; ENC
emits at most three events and DEC at most two (R237). -/
def Obligations.EventsOnlyAppendOutput : Prop :=
  ∀ (i : Instr) (s t : State), exec i s = .next t →
    ((∀ g, i ≠ .encReset g) →
      ∃ l, l.length ≤ 3 ∧ t.encOut = { s.encOut with inFlight := s.encOut.inFlight ++ l }) ∧
    ((∀ g, i ≠ .decReset g) →
      ∃ l, l.length ≤ 2 ∧ t.decOut = { s.decOut with inFlight := s.decOut.inFlight ++ l })

/-- R190, R195: the steps of `State.Raises` report their error, and whatever a step appends to DEC's output holds an error report
only if it is one of those steps; the report is then all that is appended. -/
def Obligations.ErrorsAreRaisedExactlyThere : Prop :=
  ∀ (i : Instr) (s t : State) (k : ErrCode) (c : Byte) (p : Nat), s.Inv → exec i s = .next t →
    (s.Raises i k c p → t.decOut.inFlight = s.decOut.inFlight ++ [.error k c p]) ∧
    (∀ l, t.decOut.inFlight = s.decOut.inFlight ++ l →
      (.error k c p ∈ l ↔ s.Raises i k c p) ∧ (.error k c p ∈ l → l.length = 1))

/-- R27, R200: the failed state is entered only by an invalid character and left only by DEC.END and DEC.RESET. -/
def Obligations.FailedStateEnteredAndLeft : Prop :=
  ∀ (i : Instr) (s t : State), exec i s = .next t →
    (s.dec.failed = false → t.dec.failed = true → ∃ c, i = .decChar c ∧ romI c = none) ∧
    (s.dec.failed = true → t.dec.failed = false → (∃ g, i = .decEnd g) ∨ ∃ g, i = .decReset g)

/-- R36 (e), R171, R201: while a message has failed DEC emits nothing, and a character changes no register. -/
def Obligations.FailedStateIsSilent : Prop :=
  ∀ (i : Instr) (s t : State), s.dec.failed = true → (∀ g, i ≠ .decReset g) → exec i s = .next t →
    t.decOut = s.decOut ∧ (∀ c, i = .decChar c → t.dec = s.dec)

/-- R68, R205: an operation of one block leaves the other block's registers and output as they are, and no operation touches
what is presented at the ports. -/
def Obligations.BlocksLeaveEachOtherAlone : Prop :=
  ∀ (i : Instr) (s t : State), exec i s = .next t →
    t.pending = s.pending ∧
    (i.port = .enc → t.dec = s.dec ∧ t.decOut = s.decOut) ∧
    (i.port = .dec → t.enc = s.enc ∧ t.encOut = s.encOut)

/-- R205: operations of different blocks commute. -/
def Obligations.CrossPortEventsCommute : Prop :=
  ∀ (i j : Instr) (s t : State), i.port = .enc → j.port = .dec →
    (execAll [i, j] s = .next t ↔ execAll [j, i] s = .next t)

/-- R66, R68, R205: what a block does in any interleaving is what its own events do alone: its registers and its output are a
function of its own input events and its own start state. -/
def Obligations.InterleavingIsUnobservable : Prop :=
  ∀ (l : List Instr) (s : State),
    (∀ t, execAll l s = .next t →
      (∃ u, execAll (l.filter fun i => i.port = .enc) s = .next u ∧ u.enc = t.enc ∧ u.encOut = t.encOut ∧
        u.dec = s.dec ∧ u.decOut = s.decOut) ∧
      (∃ u, execAll (l.filter fun i => i.port = .dec) s = .next u ∧ u.dec = t.dec ∧ u.decOut = t.decOut ∧
        u.enc = s.enc ∧ u.encOut = s.encOut)) ∧
    (∀ u v, execAll (l.filter fun i => i.port = .enc) s = .next u →
      execAll (l.filter fun i => i.port = .dec) s = .next v → ∃ t, execAll l s = .next t)

/-- R222, U6: a RESET may deliver any prefix of the undelivered output, and nothing but a prefix of it. -/
def Obligations.ResetDeliversAnyPrefix : Prop :=
  ∀ (α : Type) (p : OutPort α) (q : List α),
    (∃ k, (p.flush k).delivered = p.delivered ++ q) ↔ q <+: p.inFlight

/-- R65, R66: running as many steps as events are presented is running their operations in order. -/
def Obligations.RunFollowsPresentedEvents : Prop :=
  ∀ (l : List Instr) (rest : List PortWord) (s : State), s.pending = l.map encode ++ rest →
    (∀ t, run l.length s = .next t ↔ execAll l { s with pending := rest } = .next t) ∧
    (∀ r, run l.length s = .fault r ↔ execAll l { s with pending := rest } = .fault r) ∧
    (∀ r, run l.length s = .refused r ↔ execAll l { s with pending := rest } = .refused r)

/-! ### The whole-message functions -/

/-- R130: the length law and the alphabet closure of `encode`, and the length of a decoded message. -/
def Obligations.LengthLawAndClosure : Prop :=
  (∀ b : List Byte, (encodeMsg b).length = 3 * (b.length / 2) + (if b.length % 2 = 1 then 2 else 0)) ∧
  (∀ b : List Byte, ∀ c ∈ encodeMsg b, c ∈ alphabet) ∧
  (∀ (s bytes : List Byte), decodeMsg s = .ok bytes →
    bytes.length = 2 * (s.length / 3) + (if s.length % 3 = 2 then 1 else 0))

/-- R128: decoding an encoded byte sequence gives it back; the encoded text never has length 1 modulo 3; the converse does not
hold. -/
def Obligations.DecodeInvertsEncode : Prop :=
  (∀ b : List Byte, decodeMsg (encodeMsg b) = .ok b) ∧
  (∀ b : List Byte, (encodeMsg b).length % 3 ≠ 1) ∧
  (∃ s bytes : List Byte, decodeMsg s = .ok bytes ∧ encodeMsg bytes ≠ s)

/-- R124 against R122, R123, R125 to R127: the walk of the pseudocode over positions is the decoding group by group. -/
def Obligations.DecodeWalkIsGroupByGroup : Prop :=
  ∀ s : List Byte, decodeMsg s = decodeGroups 0 [] s

/-- R125, R126, R131: a text with a character outside the alphabet fails with InvalidCharacter, naming the invalid character at
the lowest position, after the bytes of the complete groups before it. -/
def Obligations.ErrorNamesLowestInvalid : Prop :=
  ∀ s : List Byte, (∃ c ∈ s, romI c = none) →
    ∃ c p before, decodeMsg s = .err .invalidCharacter c p before ∧ s[p]? = some c ∧ romI c = none ∧
      (∀ q x, q < p → s[q]? = some x → romI x ≠ none) ∧ before.length = 2 * (p / 3) ∧
      decodeMsg (s.take (3 * (p / 3))) = .ok before

/-- R127, R123, R124: a text of valid characters is decoded, or has length 1 modulo 3 and fails with DanglingCharacter, naming
its last character, after the bytes of its complete groups. -/
def Obligations.ValidTextDecodesOrDangles : Prop :=
  ∀ s : List Byte, (∀ c ∈ s, romI c ≠ none) →
    (s.length % 3 ≠ 1 → ∃ bytes, decodeMsg s = .ok bytes) ∧
    (s.length % 3 = 1 → ∃ c before, decodeMsg s = .err .danglingCharacter c (s.length - 1) before ∧
      s[s.length - 1]? = some c ∧ before.length = 2 * (s.length / 3) ∧
      decodeMsg (s.take (3 * (s.length / 3))) = .ok before)

/-- R90, R114: which groups are out of range, and that they decode all the same, by truncation and without error. -/
def Obligations.OutOfRangeGroupsDecode : Prop :=
  (∀ d0 d1 d2 : Nat, d0 ≤ 44 → d1 ≤ 44 → d2 ≤ 44 →
    (65535 < horner [d0, d1, d2] ↔ (d2 = 32 ∧ 735 < d0 + 45 * d1) ∨ 33 ≤ d2) ∧
    (255 < horner [d0, d1] ↔ (d1 = 5 ∧ 30 < d0) ∨ 6 ≤ d1)) ∧
  (∀ (x y z : Byte) (a m e : Digit), romI x = some a → romI y = some m → romI z = some e →
    (∃ b1 b0, decodeMsg [x, y, z] = .ok [b1, b0] ∧
      b1.toNat * 256 + b0.toNat = (a.toNat + 45 * m.toNat + 2025 * e.toNat) % 65536) ∧
    (∃ b, decodeMsg [x, y] = .ok [b] ∧ b.toNat = (a.toNat + 45 * m.toNat) % 256))

/-- R118, R124, R129, 95_test_vectors.md W1 to W6 and the text `!!!` of W7: the document's own fixtures, and the corner cases that
R129 lists, the invalid codes among them (sanity). -/
def Obligations.DocumentFixtures : Prop :=
  encodeMsg [0x61, 0x62, 0x63, 0x64, 0x65] = [0x30, 0x45, 0x43, 0x4A, 0x50, 0x43, 0x42, 0x32] ∧
  encodeMsg [0x61, 0x62, 0x63, 0x64, 0x65, 0x66] = [0x30, 0x45, 0x43, 0x4A, 0x50, 0x43, 0x25, 0x20, 0x43] ∧
  encodeMsg [] = [] ∧ decodeMsg [] = .ok [] ∧
  decodeMsg [0x30, 0x45, 0x43, 0x4A, 0x50, 0x43, 0x42, 0x32] = .ok [0x61, 0x62, 0x63, 0x64, 0x65] ∧
  decodeMsg [0x30, 0x45, 0x43, 0x4A, 0x50, 0x43, 0x25, 0x20, 0x43] = .ok [0x61, 0x62, 0x63, 0x64, 0x65, 0x66] ∧
  encodeMsg [0x7B, 0x22, 0x73, 0x74, 0x61, 0x74, 0x75, 0x73, 0x22, 0x3A, 0x22, 0x73, 0x75, 0x63, 0x63, 0x65, 0x73, 0x73, 0x22, 0x7D] =
    [0x4D, 0x50, 0x46, 0x20, 0x51, 0x45, 0x49, 0x45, 0x43, 0x37, 0x25, 0x45, 0x57, 0x45, 0x34, 0x3A, 0x46, 0x34, 0x20, 0x24,
     0x45, 0x4B, 0x50, 0x43, 0x5A, 0x51, 0x45, 0x39, 0x47, 0x34] ∧
  decodeMsg [0x21, 0x21, 0x21] = .err .invalidCharacter 0x21 0 [] ∧
  decodeMsg [0x3A, 0x3A, 0x3A] = .ok [0x63, 0xF4] ∧ decodeMsg [0x47, 0x47, 0x57] = .ok [0x00, 0x00] ∧
  decodeMsg [0x3A, 0x3A] = .ok [0xE8] ∧ decodeMsg [0x56, 0x35] = .ok [0x00] ∧
  decodeMsg [0x56, 0x35] = decodeMsg [0x30, 0x30] ∧
  (∀ c : Byte, (0x61 ≤ c.toNat ∧ c.toNat ≤ 0x7A) ∨ c ∈ [0x09, 0x0A, 0x0D] ∨ 0x80 ≤ c.toNat →
    romI c = none ∧ decodeMsg [c] = .err .invalidCharacter c 0 []) ∧
  romI 0x20 = some 36 ∧
  decodeMsg [0x30] = .err .danglingCharacter 0x30 0 [] ∧ decodeMsg [0x21] = .err .invalidCharacter 0x21 0 []

/-! ### The machines realise the functions -/

/-- R146: ENC refines `encode`, message by message, whatever `enc.hi` holds at the start. -/
def Obligations.EncoderRefinesEncode : Prop :=
  ∀ (b : List Byte) (rest : List PortWord) (s : State), s.enc.AtStart →
    s.pending = (encodeProgram b).map encode ++ rest →
    ∃ t, run (b.length + 1) s = .next t ∧ t.enc.AtStart ∧ t.pending = rest ∧
      t.encOut = { s.encOut with inFlight := s.encOut.inFlight ++ (encodeMsg b).map .char ++ [.done] } ∧
      t.dec = s.dec ∧ t.decOut = s.decOut

/-- R170: DEC refines `decode`, message by message, whatever the digit registers hold at the start; an InvalidCharacter at
position `p` is reported by the step that accepts the character at `p`. -/
def Obligations.DecoderRefinesDecode : Prop :=
  ∀ (m : List Byte) (rest : List PortWord) (s : State), s.dec.AtStart →
    s.pending = (decodeProgram m).map encode ++ rest →
    (∃ t, run (m.length + 1) s = .next t ∧ t.dec.AtStart ∧ t.pending = rest ∧
      t.decOut = { s.decOut with inFlight := s.decOut.inFlight ++ (decodeMsg m).events } ∧
      t.enc = s.enc ∧ t.encOut = s.encOut) ∧
    (∀ c p before, decodeMsg m = .err .invalidCharacter c p before →
      ∃ u, run (p + 1) s = .next u ∧ u.dec.failed = true ∧ u.dec.pos = p ∧
        u.decOut = { s.decOut with inFlight := s.decOut.inFlight ++ (decodeMsg m).events })

/-- R172: ENC's output of a message, wired to DEC, comes out of DEC as the message and DONE. -/
def Obligations.EncoderFeedsDecoder : Prop :=
  ∀ (b : List Byte) (s : State), s.enc.AtStart → s.dec.AtStart →
    ∃ t u outs, execAll (encodeProgram b) s = .next t ∧
      t.encOut.inFlight = s.encOut.inFlight ++ outs ∧
      execAll (outs.map wire) t = .next u ∧ u.enc.AtStart ∧ u.dec.AtStart ∧
      u.decOut.inFlight = s.decOut.inFlight ++ b.map .byte ++ [.done]

/-- R147: successive messages to ENC give the concatenation of their outputs, each closed by its own DONE. -/
def Obligations.EncoderMessagesAreIndependent : Prop :=
  ∀ (ms : List (List Byte)) (s : State), s.enc.AtStart →
    ∃ t, execAll (ms.flatMap encodeProgram) s = .next t ∧ t.enc.AtStart ∧
      t.encOut.inFlight = s.encOut.inFlight ++ ms.flatMap (fun b => (encodeMsg b).map .char ++ [.done])

/-- R171, R199: successive messages to DEC, failed ones among them, give one terminator each, and the consumer that pairs
terminators with messages keeps exactly the bytes of those that decode. -/
def Obligations.DecoderMessagesAreIndependent : Prop :=
  ∀ (ms : List (List Byte)) (s : State), s.dec.AtStart →
    ∃ t outs, execAll (ms.flatMap decodeProgram) s = .next t ∧ t.dec.AtStart ∧
      t.decOut.inFlight = s.decOut.inFlight ++ outs ∧
      outs = ms.flatMap (fun m => (decodeMsg m).events) ∧
      consume [] outs = ms.map (fun m => (decodeMsg m).accepted)

/-- R230 for ENC: without END the output is a proper prefix of the message's, with no terminator, and an odd byte stays held. -/
def Obligations.UnclosedEncoderMessage : Prop :=
  ∀ (b : List Byte) (s : State), s.enc.AtStart →
    ∃ t outs, execAll (b.map .encData) s = .next t ∧ t.encOut.inFlight = s.encOut.inFlight ++ outs ∧
      outs <+: (encodeMsg b).map .char ∧ outs.length = 3 * (b.length / 2) ∧ EncOut.done ∉ outs ∧
      (t.enc.held = true ↔ b.length % 2 = 1) ∧ (t.enc.held = true → t.enc.hi = b.getLast?)

/-- R230, R26, R24 for DEC on valid characters: without END the output is a proper prefix of the message's, with no terminator;
`dec.pos` counts the characters and `dec.cnt` is their number modulo 3. -/
def Obligations.UnclosedDecoderMessage : Prop :=
  ∀ (m : List Byte) (s : State), s.dec.AtStart → (∀ c ∈ m, romI c ≠ none) →
    ∃ t outs, execAll (m.map .decChar) s = .next t ∧ t.decOut.inFlight = s.decOut.inFlight ++ outs ∧
      outs <+: (decodeMsg m).events ∧ outs.length = 2 * (m.length / 3) ∧ (∀ e ∈ outs, ∃ b, e = .byte b) ∧
      t.dec.pos = m.length ∧ t.dec.cnt.toNat = m.length % 3 ∧ t.dec.failed = false

/-! ### Output words -/

/-- R83, R190: the output words and side-band fields of every event whose position fits `POS_W` bits. -/
def Obligations.OutputWordFormat : Prop :=
  (∀ c : Byte, (encOutWord (.char c)).getLsbD 8 = false ∧ (encOutWord (.char c)).extractLsb' 0 8 = c) ∧
  encOutWord .done = 0x100#9 ∧
  (∀ (posW : Nat) (b : Byte), ∃ w, decOutWord posW (.byte b) = some w ∧ w.word.extractLsb' 8 2 = 0b00#2 ∧
    w.word.extractLsb' 0 8 = b ∧ w.errCode = 0 ∧ w.errPos = 0) ∧
  (∀ posW : Nat, ∃ w, decOutWord posW .done = some w ∧ w.word = 0x100#10 ∧ w.errCode = 0 ∧ w.errPos = 0) ∧
  (∀ (posW : Nat) (k : ErrCode) (c : Byte) (p : Nat), p < 2 ^ posW →
    ∃ w, decOutWord posW (.error k c p) = some w ∧ w.word.extractLsb' 8 2 = 0b10#2 ∧
      w.word.extractLsb' 0 8 = c ∧ w.errCode = (if k = .invalidCharacter then 1 else 2) ∧ w.errPos.toNat = p)

/-- R83, R89: an output word stands for one event only, the kind `0b11` and the error code 3 are never produced, and the error
code is 0 exactly outside ERROR. -/
def Obligations.OutputWordsDetermineEvents : Prop :=
  (∀ e e' : EncOut, encOutWord e = encOutWord e' → e = e') ∧
  (∀ (posW : Nat) (e e' : DecOut) (w : DecOutWord posW),
    decOutWord posW e = some w → decOutWord posW e' = some w → e = e') ∧
  (∀ (posW : Nat) (e : DecOut) (w : DecOutWord posW), decOutWord posW e = some w →
    w.word.extractLsb' 8 2 ≠ 0b11#2 ∧ w.errCode ≠ 3 ∧ (w.errCode = 0 ↔ w.word.extractLsb' 8 2 ≠ 0b10#2))

/-- R235, D14: while the position fits `POS_W` bits, every event that a step emits has an output word. That an ERROR whose
position does not fit has none is the model's reading of R235 (log entry 5). -/
def Obligations.PositionsInRangeHaveWords : Prop :=
  (∀ (posW : Nat) (i : Instr) (s t : State) (l : List DecOut), s.PosInRange posW → exec i s = .next t →
    t.decOut.inFlight = s.decOut.inFlight ++ l → ∀ e ∈ l, (decOutWord posW e).isSome = true) ∧
  (∀ (posW : Nat) (k : ErrCode) (c : Byte) (p : Nat), 2 ^ posW ≤ p → decOutWord posW (.error k c p) = none)
end

