-- ==== Sys2Proof/Laws/State.lean ====
section
/-! SUPPORT. One lemma per field per state update, so that no proof unfolds a record update. -/

namespace Sys2Proof.Machine

variable (s : State) (e : EncState) (x : DecState) (le : List EncOut) (ld : List DecOut)

@[simp] theorem State.setEnc_enc : (s.setEnc e).enc = e := rfl
@[simp] theorem State.setEnc_dec : (s.setEnc e).dec = s.dec := rfl
@[simp] theorem State.setEnc_encOut : (s.setEnc e).encOut = s.encOut := rfl
@[simp] theorem State.setEnc_decOut : (s.setEnc e).decOut = s.decOut := rfl
@[simp] theorem State.setEnc_pending : (s.setEnc e).pending = s.pending := rfl

@[simp] theorem State.setDec_enc : (s.setDec x).enc = s.enc := rfl
@[simp] theorem State.setDec_dec : (s.setDec x).dec = x := rfl
@[simp] theorem State.setDec_encOut : (s.setDec x).encOut = s.encOut := rfl
@[simp] theorem State.setDec_decOut : (s.setDec x).decOut = s.decOut := rfl
@[simp] theorem State.setDec_pending : (s.setDec x).pending = s.pending := rfl

@[simp] theorem State.emitEnc_enc : (s.emitEnc le).enc = s.enc := rfl
@[simp] theorem State.emitEnc_dec : (s.emitEnc le).dec = s.dec := rfl
@[simp] theorem State.emitEnc_encOut : (s.emitEnc le).encOut = s.encOut.emit le := rfl
@[simp] theorem State.emitEnc_decOut : (s.emitEnc le).decOut = s.decOut := rfl
@[simp] theorem State.emitEnc_pending : (s.emitEnc le).pending = s.pending := rfl

@[simp] theorem State.emitDec_enc : (s.emitDec ld).enc = s.enc := rfl
@[simp] theorem State.emitDec_dec : (s.emitDec ld).dec = s.dec := rfl
@[simp] theorem State.emitDec_encOut : (s.emitDec ld).encOut = s.encOut := rfl
@[simp] theorem State.emitDec_decOut : (s.emitDec ld).decOut = s.decOut.emit ld := rfl
@[simp] theorem State.emitDec_pending : (s.emitDec ld).pending = s.pending := rfl

@[simp] theorem State.flushEnc_enc : s.flushEnc.enc = s.enc := rfl
@[simp] theorem State.flushEnc_dec : s.flushEnc.dec = s.dec := rfl
@[simp] theorem State.flushEnc_encOut : s.flushEnc.encOut = s.encOut.flush (Config.encDelivered s.encOut.draws) := rfl
@[simp] theorem State.flushEnc_decOut : s.flushEnc.decOut = s.decOut := rfl
@[simp] theorem State.flushEnc_pending : s.flushEnc.pending = s.pending := rfl

@[simp] theorem State.flushDec_enc : s.flushDec.enc = s.enc := rfl
@[simp] theorem State.flushDec_dec : s.flushDec.dec = s.dec := rfl
@[simp] theorem State.flushDec_encOut : s.flushDec.encOut = s.encOut := rfl
@[simp] theorem State.flushDec_decOut : s.flushDec.decOut = s.decOut.flush (Config.decDelivered s.decOut.draws) := rfl
@[simp] theorem State.flushDec_pending : s.flushDec.pending = s.pending := rfl

@[simp] theorem EncState.hold_started (b : Byte) : (e.hold b).started = e.started := rfl
@[simp] theorem EncState.hold_held (b : Byte) : (e.hold b).held = true := rfl
@[simp] theorem EncState.hold_hi (b : Byte) : (e.hold b).hi = some b := rfl
@[simp] theorem EncState.release_started : e.release.started = e.started := rfl
@[simp] theorem EncState.release_held : e.release.held = false := rfl
@[simp] theorem EncState.release_hi : e.release.hi = e.hi := rfl

@[simp] theorem DecState.holdFirst_started (d : Digit) : (x.holdFirst d).started = x.started := rfl
@[simp] theorem DecState.holdFirst_cnt (d : Digit) : (x.holdFirst d).cnt = 1#2 := rfl
@[simp] theorem DecState.holdFirst_d0 (d : Digit) : (x.holdFirst d).d0 = some d := rfl
@[simp] theorem DecState.holdFirst_d1 (d : Digit) : (x.holdFirst d).d1 = x.d1 := rfl
@[simp] theorem DecState.holdFirst_pos (d : Digit) : (x.holdFirst d).pos = x.pos + 1 := rfl
@[simp] theorem DecState.holdFirst_failed (d : Digit) : (x.holdFirst d).failed = x.failed := rfl
@[simp] theorem DecState.holdSecond_started (d : Digit) : (x.holdSecond d).started = x.started := rfl
@[simp] theorem DecState.holdSecond_cnt (d : Digit) : (x.holdSecond d).cnt = 2#2 := rfl
@[simp] theorem DecState.holdSecond_d0 (d : Digit) : (x.holdSecond d).d0 = x.d0 := rfl
@[simp] theorem DecState.holdSecond_d1 (d : Digit) : (x.holdSecond d).d1 = some d := rfl
@[simp] theorem DecState.holdSecond_pos (d : Digit) : (x.holdSecond d).pos = x.pos + 1 := rfl
@[simp] theorem DecState.holdSecond_failed (d : Digit) : (x.holdSecond d).failed = x.failed := rfl
@[simp] theorem DecState.closeGroup_started : x.closeGroup.started = x.started := rfl
@[simp] theorem DecState.closeGroup_cnt : x.closeGroup.cnt = 0#2 := rfl
@[simp] theorem DecState.closeGroup_d0 : x.closeGroup.d0 = x.d0 := rfl
@[simp] theorem DecState.closeGroup_d1 : x.closeGroup.d1 = x.d1 := rfl
@[simp] theorem DecState.closeGroup_pos : x.closeGroup.pos = x.pos + 1 := rfl
@[simp] theorem DecState.closeGroup_failed : x.closeGroup.failed = x.failed := rfl

@[simp] theorem EncState.afterReset_started : EncState.afterReset.started = true := rfl
@[simp] theorem EncState.afterReset_held : EncState.afterReset.held = false := rfl
@[simp] theorem EncState.afterReset_hi : EncState.afterReset.hi = none := rfl
@[simp] theorem DecState.afterReset_started : DecState.afterReset.started = true := rfl
@[simp] theorem DecState.afterReset_cnt : DecState.afterReset.cnt = 0#2 := rfl
@[simp] theorem DecState.afterReset_d0 : DecState.afterReset.d0 = none := rfl
@[simp] theorem DecState.afterReset_d1 : DecState.afterReset.d1 = none := rfl
@[simp] theorem DecState.afterReset_pos : DecState.afterReset.pos = 0 := rfl
@[simp] theorem DecState.afterReset_failed : DecState.afterReset.failed = false := rfl

@[simp] theorem State.reportError_enc (k : ErrCode) (c : Byte) (p : Nat) : (s.reportError k c p).enc = s.enc := rfl
@[simp] theorem State.reportError_dec (k : ErrCode) (c : Byte) (p : Nat) : (s.reportError k c p).dec = s.dec := rfl
@[simp] theorem State.reportError_encOut (k : ErrCode) (c : Byte) (p : Nat) : (s.reportError k c p).encOut = s.encOut := rfl
@[simp] theorem State.reportError_decOut (k : ErrCode) (c : Byte) (p : Nat) :
    (s.reportError k c p).decOut = s.decOut.emit [.error k c p] := rfl
@[simp] theorem State.reportError_pending (k : ErrCode) (c : Byte) (p : Nat) : (s.reportError k c p).pending = s.pending := rfl

@[simp] theorem State.raiseError_enc (k : ErrCode) (c : Byte) (p : Nat) : (s.raiseError k c p).enc = s.enc := rfl
@[simp] theorem State.raiseError_dec (k : ErrCode) (c : Byte) (p : Nat) :
    (s.raiseError k c p).dec = { s.dec with failed := true } := rfl
@[simp] theorem State.raiseError_encOut (k : ErrCode) (c : Byte) (p : Nat) : (s.raiseError k c p).encOut = s.encOut := rfl
@[simp] theorem State.raiseError_decOut (k : ErrCode) (c : Byte) (p : Nat) :
    (s.raiseError k c p).decOut = s.decOut.emit [.error k c p] := rfl
@[simp] theorem State.raiseError_pending (k : ErrCode) (c : Byte) (p : Nat) : (s.raiseError k c p).pending = s.pending := rfl

@[simp] theorem State.startDecMessage_enc : s.startDecMessage.enc = s.enc := rfl
@[simp] theorem State.startDecMessage_dec :
    s.startDecMessage.dec = { s.dec with cnt := 0#2, pos := 0, failed := false } := rfl
@[simp] theorem State.startDecMessage_encOut : s.startDecMessage.encOut = s.encOut := rfl
@[simp] theorem State.startDecMessage_decOut : s.startDecMessage.decOut = s.decOut := rfl
@[simp] theorem State.startDecMessage_pending : s.startDecMessage.pending = s.pending := rfl

@[simp] theorem State.startedAt_enc : s.startedAt .enc = s.enc.started := rfl
@[simp] theorem State.startedAt_dec : s.startedAt .dec = s.dec.started := rfl

/-- Two states are equal when their five fields are. -/
theorem State.eq_of_fields {s t : State} (h1 : s.enc = t.enc) (h2 : s.dec = t.dec) (h3 : s.encOut = t.encOut)
    (h4 : s.decOut = t.decOut) (h5 : s.pending = t.pending) : s = t := by
  cases s; cases t; simp_all

end Sys2Proof.Machine
end

