-- ==== Sys2Proof/Laws/Ops.lean ====
section
/-! SUPPORT. One lemma per shared operation, saying all it can do. -/

namespace Sys2Proof.Machine

/-! ### Output streams -/

section
variable {α : Type} (p : OutPort α) (l l' : List α)

@[simp] theorem OutPort.emit_delivered : (p.emit l).delivered = p.delivered := rfl
@[simp] theorem OutPort.emit_inFlight : (p.emit l).inFlight = p.inFlight ++ l := rfl
@[simp] theorem OutPort.emit_draws : (p.emit l).draws = p.draws := rfl
@[simp] theorem OutPort.flush_inFlight (k : Nat) : (p.flush k).inFlight = [] := rfl
@[simp] theorem OutPort.flush_draws (k : Nat) : (p.flush k).draws = p.draws + 1 := rfl

@[simp] theorem OutPort.emit_nil : p.emit [] = p := by
  cases p; simp [OutPort.emit]

/-- Emitting one list after another is emitting both, in order. -/
@[simp] theorem OutPort.emit_emit : (p.emit l).emit l' = p.emit (l ++ l') := by
  simp [OutPort.emit]

@[simp] theorem OutPort.emit_stream : (p.emit l).stream = p.stream ++ l := by
  simp [OutPort.emit, OutPort.stream]

theorem deliveredPrefix_eq_take (l : List α) : ∀ k, deliveredPrefix l k = l.take k := by
  induction l with
  | nil => intro k; simp [deliveredPrefix]
  | cons a l ih =>
    intro k
    cases k with
    | zero => rfl
    | succ k => simp [deliveredPrefix, ih]

/-- A flush delivers the first `k` undelivered events and discards the rest. -/
theorem OutPort.flush_delivered (k : Nat) : (p.flush k).delivered = p.delivered ++ p.inFlight.take k := by
  simp [OutPort.flush, deliveredPrefix_eq_take]

end

/-! ### Guards and reads -/

theorem whenStarted_of_started {p : Port} {s : State} {k : Result} (h : s.startedAt p = true) : whenStarted p s k = k := by
  simp [whenStarted, h]

theorem whenStarted_of_not_started {p : Port} {s : State} {k : Result} (h : s.startedAt p = false) :
    whenStarted p s k = .refused (.beforeReset p) := by
  simp [whenStarted, h]

/-- All a guarded event can do to reach a next state. -/
theorem whenStarted_eq_next {p : Port} {s t : State} {k : Result} :
    whenStarted p s k = .next t ↔ s.startedAt p = true ∧ k = .next t := by
  unfold whenStarted
  split <;> simp_all

/-- A guarded event faults only where its body does. -/
theorem whenStarted_eq_fault {p : Port} {s : State} {k : Result} {r : Fault} :
    whenStarted p s k = .fault r ↔ s.startedAt p = true ∧ k = .fault r := by
  unfold whenStarted
  split <;> simp_all

/-- A guarded event is refused before the first RESET, or where its body is. -/
theorem whenStarted_eq_refused {p : Port} {s : State} {k : Result} {r : Refusal} :
    whenStarted p s k = .refused r ↔
      (s.startedAt p = false ∧ r = .beforeReset p) ∨ (s.startedAt p = true ∧ k = .refused r) := by
  cases h : s.startedAt p
  · simp [whenStarted, h, eq_comm]
  · simp [whenStarted, h]

section
variable {α : Type} {r : Register} {v : Option α} {k : α → Result}

@[simp] theorem readReg_some (a : α) : readReg r (some a) k = k a := rfl
@[simp] theorem readReg_none : readReg r none k = .fault (.unwrittenRead r) := rfl

theorem readReg_eq_next {t : State} : readReg r v k = .next t ↔ ∃ a, v = some a ∧ k a = .next t := by
  cases v <;> simp

end

theorem readRomA_eq_next {a : Digit} {k : Byte → Result} {t : State} :
    readRomA a k = .next t ↔ ∃ c, romA a = some c ∧ k c = .next t := by
  unfold readRomA
  split <;> simp_all

/-! ### The tables -/

theorem alphabet_length : alphabet.length = 45 := by decide

/-- ROM_A has a character at every digit (R53, R67). -/
theorem romA_eq_some {a : Digit} (h : a.toNat ≤ 44) : romA a = some (alphabet.getD a.toNat 0) := by
  have hl : a.toNat < alphabet.length := by rw [alphabet_length]; omega
  simp [romA, List.getD_eq_getElem?_getD, List.getElem?_eq_getElem hl]

/-- ROM_A has nothing at the addresses 45..63 (R67). -/
theorem romA_eq_none {a : Digit} (h : 45 ≤ a.toNat) : romA a = none := by
  have hl : alphabet.length ≤ a.toNat := by rw [alphabet_length]; exact h
  exact List.getElem?_eq_none hl

/-- The read at a remainder is a read of an existing entry (R53 (c)). -/
theorem romAMod_eq (x : Nat) : alphabet[x % 45]? = some (romAMod x) := by
  have hl : x % 45 < alphabet.length := by rw [alphabet_length]; omega
  simp [romAMod, radix, List.getD_eq_getElem?_getD, List.getElem?_eq_getElem hl]

/-- Every digit ROM_I gives is one of the 45 (R54). -/
theorem romI_le (c : Byte) : ∀ d ∈ romI c, d.toNat ≤ 44 := by
  revert c
  decide

/-! ### Taking an event -/

@[simp] theorem State.fetch_nil {s : State} (h : s.pending = []) : s.fetch = none := by
  simp [State.fetch, h]

theorem State.fetch_cons {s : State} {e : PortWord} {rest : List PortWord} (h : s.pending = e :: rest) :
    s.fetch = some (decodeWord e.port e.word, { s with pending := rest }) := by
  simp [State.fetch, h]

end Sys2Proof.Machine
end

