-- ==== Sys2Proof/Laws/Exec.lean ====
section
/-! SUPPORT. One inversion lemma per operation: all it can do when it answers a next state. -/

namespace Sys2Proof.Machine

theorem exec_encReset_next {g : BitVec 9} {s t : State} :
    exec (.encReset g) s = .next t ↔ s.flushEnc.setEnc .afterReset = t := by
  simp [exec, execEncReset]

theorem exec_encData_next {data : Byte} {s t : State} :
    exec (.encData data) s = .next t ↔ s.enc.started = true ∧
      ((s.enc.held = false ∧ s.setEnc (s.enc.hold data) = t) ∨
       (s.enc.held = true ∧ ∃ hi, s.enc.hi = some hi ∧
          (s.emitEnc ((pairChars (encPairValue hi data)).map .char)).setEnc s.enc.release = t)) := by
  simp only [exec, execEncData, whenStarted_eq_next, State.startedAt_enc]
  cases s.enc.held <;> simp [readReg_eq_next]

theorem exec_encEnd_next {g : BitVec 8} {s t : State} :
    exec (.encEnd g) s = .next t ↔ s.enc.started = true ∧
      ((s.enc.held = false ∧ (s.emitEnc [.done]).setEnc s.enc.release = t) ∨
       (s.enc.held = true ∧ ∃ hi, s.enc.hi = some hi ∧
          (s.emitEnc ((tailChars (encTailValue hi)).map .char ++ [.done])).setEnc s.enc.release = t)) := by
  simp only [exec, execEncEnd, whenStarted_eq_next, State.startedAt_enc]
  cases s.enc.held <;> simp [readReg_eq_next]

theorem exec_decReset_next {g : BitVec 9} {s t : State} :
    exec (.decReset g) s = .next t ↔ s.flushDec.setDec .afterReset = t := by
  simp [exec, execDecReset]

/-- What accepting a digit does: hold it, or complete the group. -/
theorem acceptDigit_next {d : Digit} {s t : State} :
    acceptDigit d s = .next t ↔
      (s.dec.cnt = 0#2 ∧ s.setDec (s.dec.holdFirst d) = t) ∨
      (s.dec.cnt = 1#2 ∧ s.setDec (s.dec.holdSecond d) = t) ∨
      (s.dec.cnt ≠ 0#2 ∧ s.dec.cnt ≠ 1#2 ∧ ∃ d1 d0, s.dec.d1 = some d1 ∧ s.dec.d0 = some d0 ∧
        (s.emitDec ((groupBytes (decGroupValue d d1 d0)).map .byte)).setDec s.dec.closeGroup = t) := by
  unfold acceptDigit
  by_cases h0 : s.dec.cnt = 0#2
  · simp [h0]
  · by_cases h1 : s.dec.cnt = 1#2
    · simp [h1]
    · simp [h0, h1, readReg_eq_next]

theorem exec_decChar_next {data : Byte} {s t : State} :
    exec (.decChar data) s = .next t ↔ s.dec.started = true ∧
      ((s.dec.failed = true ∧ s = t) ∨
       (s.dec.failed = false ∧ romI data = none ∧ s.raiseError .invalidCharacter data s.dec.pos = t) ∨
       (s.dec.failed = false ∧ ∃ d, romI data = some d ∧ acceptDigit d s = .next t)) := by
  simp only [exec, execDecChar, whenStarted_eq_next, State.startedAt_dec]
  cases s.dec.failed
  · cases romI data <;> simp
  · simp

theorem exec_decEnd_next {g : BitVec 8} {s t : State} :
    exec (.decEnd g) s = .next t ↔ s.dec.started = true ∧
      ((s.dec.failed = true ∧ s.startDecMessage = t) ∨
       (s.dec.failed = false ∧ s.dec.cnt = 0#2 ∧ (s.emitDec [.done]).startDecMessage = t) ∨
       (s.dec.failed = false ∧ s.dec.cnt = 2#2 ∧ ∃ d1 d0, s.dec.d1 = some d1 ∧ s.dec.d0 = some d0 ∧
          (s.emitDec [.byte (tailByte (decTailValue d1 d0)), .done]).startDecMessage = t) ∨
       (s.dec.failed = false ∧ s.dec.cnt ≠ 0#2 ∧ s.dec.cnt ≠ 2#2 ∧ ∃ d0 c, s.dec.d0 = some d0 ∧ romA d0 = some c ∧
          (s.reportError .danglingCharacter c (s.dec.pos - 1)).startDecMessage = t)) := by
  simp only [exec, execDecEnd, whenStarted_eq_next, State.startedAt_dec]
  cases s.dec.failed
  · by_cases h0 : s.dec.cnt = 0#2
    · simp [h0]
    · by_cases h2 : s.dec.cnt = 2#2
      · simp [h2, readReg_eq_next]
      · simp [h0, h2, readReg_eq_next, readRomA_eq_next]
  · simp

end Sys2Proof.Machine
end

