-- ==== Sys2Proof/Laws/PerInstr.lean ====
section
/-! SUPPORT. The family RowPattern: the table word of every instruction lies in its own row of the operation map (R84). -/

namespace Sys2Proof.Laws.RowPattern

/-- `(T & mask) = match` for the row of the instruction, `T` the table word of its encoding. -/
def Statement (i : Instr) : Prop := tableWordOf (encode i) &&& (rowPattern i).2 = (rowPattern i).1

theorem encReset (g : BitVec 9) : Statement (.encReset g) := by
  unfold Statement tableWordOf encode rowPattern portBit
  revert g
  decide

theorem encData (d : Byte) : Statement (.encData d) := by
  unfold Statement tableWordOf encode rowPattern portBit
  revert d
  decide

theorem encEnd (g : BitVec 8) : Statement (.encEnd g) := by
  unfold Statement tableWordOf encode rowPattern portBit
  revert g
  decide

theorem decReset (g : BitVec 9) : Statement (.decReset g) := by
  unfold Statement tableWordOf encode rowPattern portBit
  revert g
  decide

theorem decChar (d : Byte) : Statement (.decChar d) := by
  unfold Statement tableWordOf encode rowPattern portBit
  revert d
  decide

theorem decEnd (g : BitVec 8) : Statement (.decEnd g) := by
  unfold Statement tableWordOf encode rowPattern portBit
  revert g
  decide

end Sys2Proof.Laws.RowPattern
end

