-- ==== Sys2Proof/Machine/Trace.lean ====
section
/-! DEFINITION. The trace syntax of R92 (log entry 11). -/

namespace Sys2Proof.Machine

def hexDigits : List Char := ['0', '1', '2', '3', '4', '5', '6', '7', '8', '9', 'A', 'B', 'C', 'D', 'E', 'F']

/-- `0xNN`. -/
def hexByte (b : Byte) : List Char :=
  ['0', 'x', hexDigits.getD (b.toNat / 16) '?', hexDigits.getD (b.toNat % 16) '?']

/-- A number in decimal. -/
def decimal (n : Nat) : List Char := Nat.toDigits 10 n

def traceBit (b : Bool) : List Char := if b then ['1'] else ['0']

/-- A register, or `--` if it holds no value. -/
def traceReg {α : Type} (f : α → List Char) : Option α → List Char
  | some a => f a
  | none => ['-', '-']

/-- An input event. -/
def traceInstr : Instr → List Char
  | .encReset _ => "ENC.RESET".toList
  | .encData d => "ENC.DATA ".toList ++ hexByte d
  | .encEnd _ => "ENC.END".toList
  | .decReset _ => "DEC.RESET".toList
  | .decChar d => "DEC.CHAR ".toList ++ hexByte d
  | .decEnd _ => "DEC.END".toList

/-- An output event of ENC. -/
def traceEncOut : EncOut → List Char
  | .char c => "CHAR ".toList ++ hexByte c
  | .done => "DONE".toList

/-- An output event of DEC. -/
def traceDecOut : DecOut → List Char
  | .byte b => "BYTE ".toList ++ hexByte b
  | .done => "DONE".toList
  | .error k c p => "ERROR(".toList ++ decimal k.code.toNat ++ ", ".toList ++ hexByte c ++ ", ".toList ++ decimal p ++ [')']

/-- ENC's registers: `have=1 hi=0x61`. -/
def traceEnc (e : EncState) : List Char :=
  "have=".toList ++ traceBit e.held ++ " hi=".toList ++ traceReg hexByte e.hi

/-- DEC's registers: `cnt=2 d0=0 d1=14 pos=2 failed=0`. -/
def traceDec (x : DecState) : List Char :=
  "cnt=".toList ++ decimal x.cnt.toNat ++ " d0=".toList ++ traceReg (fun d => decimal d.toNat) x.d0 ++
  " d1=".toList ++ traceReg (fun d => decimal d.toNat) x.d1 ++ " pos=".toList ++ decimal x.pos ++
  " failed=".toList ++ traceBit x.failed

end Sys2Proof.Machine
end

