-- ==== Sys2Proof/Tests/Slice0.lean ====
section
/-! SUPPORT. Tests, with every expected result taken from the spec, and a witness for the hypotheses of every statement of
Certificates/Slice0/Obligations.lean that has any. -/

namespace Sys2Proof.Tests

open Sys2Proof.Machine

/-! ### Helpers -/

/-- The next state, if there is one. -/
def nextOf : Result → Option State
  | .next t => some t
  | _ => none

/-- The fault, if there is one. -/
def faultOf : Result → Option Fault
  | .fault r => some r
  | _ => none

/-- The refusal, if there is one. -/
def refusalOf : Result → Option Refusal
  | .refused r => some r
  | _ => none

/-- The state after reset, but for ENC's `have` and `hi`. -/
def encAt (held : Bool) (hi : Option Byte) : State := { State.reset with enc := ⟨true, held, hi⟩ }

/-- The state after reset, but for DEC's registers. -/
def decAt (cnt : BitVec 2) (d0 d1 : Option Digit) (pos : Nat) (failed : Bool) : State :=
  { State.reset with dec := ⟨true, cnt, d0, d1, pos, failed⟩ }

/-- ENC's registers and new output after an operation. -/
def encAfter (i : Instr) (s : State) : Option (EncState × List EncOut) :=
  (nextOf (exec i s)).map fun t => (t.enc, t.encOut.inFlight)

/-- DEC's registers and new output after an operation. -/
def decAfter (i : Instr) (s : State) : Option (DecState × List DecOut) :=
  (nextOf (exec i s)).map fun t => (t.dec, t.decOut.inFlight)

/-! ### Decoding: words written out from the format table of R82 and the map of R84 -/

/-- `rst = 1`; V67 sets `kind` and `data` too, and `rst` wins. -/
theorem test_decode_encReset :
    decodeWord .enc 0b1000000000#10 = .encReset 0 ∧ decodeWord .enc 0b1111111111#10 = .encReset 0x1FF := by decide

/-- `rst = 0, kind = 0`, data 0x61 (P1 step 2). -/
theorem test_decode_encData : decodeWord .enc 0b0001100001#10 = .encData 0x61 := by decide

/-- `rst = 0, kind = 1`; V64 sets data bits. -/
theorem test_decode_encEnd :
    decodeWord .enc 0b0100000000#10 = .encEnd 0 ∧ decodeWord .enc 0b0110100101#10 = .encEnd 0xA5 := by decide

theorem test_decode_decReset : decodeWord .dec 0b1000000000#10 = .decReset 0 := by decide

/-- The character 'C', 0x43 (P2 step 4). -/
theorem test_decode_decChar : decodeWord .dec 0b0001000011#10 = .decChar 0x43 := by decide

theorem test_decode_decEnd : decodeWord .dec 0b0100000000#10 = .decEnd 0 := by decide

/-- Table words of R84: `unit` in bit 10, then the port word. -/
theorem test_decode_table_words :
    decodeTableWord 11 0x200 = some (.encReset 0) ∧ decodeTableWord 11 0x061 = some (.encData 0x61) ∧
    decodeTableWord 11 0x100 = some (.encEnd 0) ∧ decodeTableWord 11 0x600 = some (.decReset 0) ∧
    decodeTableWord 11 0x443 = some (.decChar 0x43) ∧ decodeTableWord 11 0x500 = some (.decEnd 0) := by decide

/-- The words of V61 to V80's events, written by the encoder. -/
theorem test_encode_words :
    encode (.encData 0xFF) = ⟨.enc, 0x0FF#10⟩ ∧ encode (.encEnd 0) = ⟨.enc, 0x100#10⟩ ∧
    encode (.encReset 0) = ⟨.enc, 0x200#10⟩ ∧ encode (.decChar 0x7B) = ⟨.dec, 0x07B#10⟩ ∧
    encode (.decEnd 0) = ⟨.dec, 0x100#10⟩ ∧ encode (.decReset 0) = ⟨.dec, 0x200#10⟩ := by decide

/-! ### WellFormed: a producer drives zero on ignored bits (R87) -/

theorem test_wellFormed_accepts :
    (Instr.encReset 0).wellFormed = true ∧ (Instr.encData 0xFF).wellFormed = true ∧ (Instr.encEnd 0).wellFormed = true ∧
    (Instr.decReset 0).wellFormed = true ∧ (Instr.decChar 0xFF).wellFormed = true ∧ (Instr.decEnd 0).wellFormed = true := by
  decide

theorem test_wellFormed_refuses_encReset : (Instr.encReset 0x100).wellFormed = false := by decide
theorem test_wellFormed_refuses_encEnd : (Instr.encEnd 0xA5).wellFormed = false := by decide
theorem test_wellFormed_refuses_decReset : (Instr.decReset 1).wellFormed = false := by decide
theorem test_wellFormed_refuses_decEnd : (Instr.decEnd 0x80).wellFormed = false := by decide

/-! ### One step, from the vectors V-E of 95_test_vectors.md -/

/-- V66, V67. -/
theorem test_encReset_drops_held_byte :
    encAfter (.encReset 0) (encAt true (some 0x61)) = some (⟨true, false, none⟩, []) ∧
    encAfter (.encReset 0x1FF) (encAt true (some 0x61)) = some (⟨true, false, none⟩, []) := by decide

/-- V60. -/
theorem test_encData_holds_first :
    encAfter (.encData 0x00) (encAt false none) = some (⟨true, true, some 0x00⟩, []) := by decide

/-- V62 and the example of R141 (`0EC`), where the two bytes differ. -/
theorem test_encData_completes_pair :
    encAfter (.encData 0xFF) (encAt true (some 0xFF)) =
      some (⟨true, false, some 0xFF⟩, [.char 0x46, .char 0x47, .char 0x57]) ∧
    encAfter (.encData 0x62) (encAt true (some 0x61)) =
      some (⟨true, false, some 0x61⟩, [.char 0x30, .char 0x45, .char 0x43]) := by decide

/-- V63, V64. -/
theorem test_encEnd_without_byte :
    encAfter (.encEnd 0) (encAt false none) = some (⟨true, false, none⟩, [.done]) ∧
    encAfter (.encEnd 0xA5) (encAt false none) = some (⟨true, false, none⟩, [.done]) := by decide

/-- V65. -/
theorem test_encEnd_with_byte :
    encAfter (.encEnd 0) (encAt true (some 0x2D)) = some (⟨true, false, some 0x2D⟩, [.char 0x30, .char 0x31, .done]) := by
  decide

/-- V80. -/
theorem test_decReset_leaves_failed_state :
    decAfter (.decReset 0) (decAt 1#2 (some 36) none 4 true) = some (⟨true, 0#2, none, none, 0, false⟩, []) := by decide

/-- V70, V71, V72: the three characters of a group. -/
theorem test_decChar_group :
    decAfter (.decChar 0x3A) (decAt 0#2 none none 0 false) = some (⟨true, 1#2, some 44, none, 1, false⟩, []) ∧
    decAfter (.decChar 0x20) (decAt 1#2 (some 44) none 1 false) = some (⟨true, 2#2, some 44, some 36, 2, false⟩, []) ∧
    decAfter (.decChar 0x30) (decAt 2#2 (some 44) (some 36) 2 false) =
      some (⟨true, 0#2, some 44, some 36, 3, false⟩, [.byte 0x06, .byte 0x80]) := by decide

/-- V73, V74, V75: the error, and draining. -/
theorem test_decChar_error_and_draining :
    decAfter (.decChar 0x7B) (decAt 2#2 (some 0) (some 0) 5 false) =
      some (⟨true, 2#2, some 0, some 0, 5, true⟩, [.error .invalidCharacter 0x7B 5]) ∧
    decAfter (.decChar 0x30) (decAt 2#2 (some 0) (some 0) 5 true) = some (⟨true, 2#2, some 0, some 0, 5, true⟩, []) ∧
    decAfter (.decChar 0x7B) (decAt 2#2 (some 0) (some 0) 5 true) = some (⟨true, 2#2, some 0, some 0, 5, true⟩, []) := by
  decide

/-- V77, V78. -/
theorem test_decEnd_done :
    decAfter (.decEnd 0) (decAt 0#2 none none 6 false) = some (⟨true, 0#2, none, none, 0, false⟩, [.done]) ∧
    decAfter (.decEnd 0) (decAt 2#2 (some 30) (some 5) 2 false) =
      some (⟨true, 0#2, some 30, some 5, 0, false⟩, [.byte 0xFF, .done]) := by decide

/-- V76, V79. -/
theorem test_decEnd_failed_or_dangling :
    decAfter (.decEnd 0) (decAt 2#2 (some 0) (some 0) 5 true) = some (⟨true, 0#2, some 0, some 0, 0, false⟩, []) ∧
    decAfter (.decEnd 0) (decAt 1#2 (some 36) none 4 false) =
      some (⟨true, 0#2, some 36, none, 0, false⟩, [.error .danglingCharacter 0x20 3]) := by decide

/-- The example of R161 through a whole step: the table word 0x443 is DEC.CHAR 'C'. -/
theorem test_step_runs_table_word :
    (nextOf (step ((decAt 2#2 (some 0) (some 14) 2 false).withFetchWord 11 0x443))).map (fun t => (t.dec.cnt, t.dec.pos, t.decOut.inFlight, t.pending)) =
      some (0#2, 3, [.byte 0x61, .byte 0x62], []) := by decide

/-- R220: before its first RESET a block runs no other event. -/
theorem test_refused_before_reset :
    refusalOf (exec (.encData 0) State.powerUp) = some (.beforeReset .enc) ∧
    refusalOf (exec (.decEnd 0) State.powerUp) = some (.beforeReset .dec) := by decide

/-! ### Whole messages, from the vectors W, V-A, V-B, V-C, V-D -/

/-- W5. -/
theorem test_encode_w5 :
    encodeMsg [0x7B, 0x22, 0x73, 0x74, 0x61, 0x74, 0x75, 0x73, 0x22, 0x3A, 0x22, 0x73, 0x75, 0x63, 0x63, 0x65, 0x73, 0x73, 0x22, 0x7D] =
      [0x4D, 0x50, 0x46, 0x20, 0x51, 0x45, 0x49, 0x45, 0x43, 0x37, 0x25, 0x45, 0x57, 0x45, 0x34, 0x3A, 0x46, 0x34, 0x20, 0x24, 0x45,
       0x4B, 0x50, 0x43, 0x5A, 0x51, 0x45, 0x39, 0x47, 0x34] := by decide

/-- V11 (the first byte is the high one), V15, V18. -/
theorem test_encode_vectors :
    encodeMsg [0x01, 0x00] = [0x56, 0x35, 0x30] ∧
    encodeMsg [0xFF, 0xFF, 0xFF] = [0x46, 0x47, 0x57, 0x55, 0x35] ∧
    encodeMsg [0x62, 0x61, 0x73, 0x65, 0x2D, 0x34, 0x35] =
      [0x55, 0x4A, 0x43, 0x4C, 0x51, 0x45, 0x37, 0x57, 0x35, 0x38, 0x31] := by decide

/-- V28 (a space is a digit), V33, V37, V38. -/
theorem test_decode_vectors :
    decodeMsg [0x30, 0x45, 0x43, 0x20, 0x4A, 0x50] = .ok [0x61, 0x62, 0xC9, 0x3C] ∧
    decodeMsg [0x30, 0x36] = .ok [0x0E] ∧ decodeMsg [0x30, 0x30, 0x58] = .ok [0x05, 0x09] ∧
    decodeMsg [0x46, 0x47, 0x57, 0x3A, 0x3A] = .ok [0xFF, 0xFF, 0xE8] := by decide

/-- V44, V46, V47, V53. -/
theorem test_decode_errors :
    decodeMsg [0x30, 0x45, 0x43, 0x21] = .err .invalidCharacter 0x21 3 [0x61, 0x62] ∧
    decodeMsg [0x30, 0x45, 0x43, 0x4A, 0x50, 0x43, 0x21] = .err .invalidCharacter 0x21 6 [0x61, 0x62, 0x63, 0x64] ∧
    decodeMsg [0x30, 0x45, 0x21, 0x4A, 0x21] = .err .invalidCharacter 0x21 2 [] ∧
    decodeMsg [0x30, 0x45, 0x43, 0x4A, 0x50, 0x43, 0x42] = .err .danglingCharacter 0x42 6 [0x61, 0x62, 0x63, 0x64] := by decide

/-- The output words that stand below the table V-E. -/
theorem test_output_words :
    encOutWord (.char 0x30) = 0x030#9 ∧ encOutWord (.char 0x46) = 0x046#9 ∧ encOutWord .done = 0x100#9 ∧
    decOutWord 32 (.byte 0x06) = some ⟨0x006, 0, 0⟩ ∧ decOutWord 32 .done = some ⟨0x100, 0, 0⟩ ∧
    decOutWord 32 (.error .invalidCharacter 0x7B 5) = some ⟨0x27B, 1, 5⟩ ∧
    decOutWord 32 (.error .danglingCharacter 0x20 3) = some ⟨0x220, 2, 3⟩ := by decide

/-- The spellings of R92. -/
theorem test_trace_spellings :
    traceInstr (.encData 0x61) = "ENC.DATA 0x61".toList ∧
    traceEnc ⟨true, true, some 0x61⟩ = "have=1 hi=0x61".toList ∧
    traceEnc ⟨true, false, none⟩ = "have=0 hi=--".toList ∧
    traceDec ⟨true, 2#2, some 0, some 14, 2, false⟩ = "cnt=2 d0=0 d1=14 pos=2 failed=0".toList ∧
    traceDecOut (.error .invalidCharacter 0x7B 5) = "ERROR(1, 0x7B, 5)".toList := by decide

/-! ### Witnesses: states and operands that meet the hypotheses of the statements -/

theorem reset_inv : State.reset.Inv := ⟨by decide, by decide⟩
theorem powerUp_inv : State.powerUp.Inv := ⟨by decide, by decide⟩
theorem reset_started : State.reset.Started := by decide
theorem reset_outLegal : State.reset.OutLegal := ⟨by decide, by decide⟩

/-- A state of the invariant in the middle of a message of each block: a byte held, two digits held. -/
def midMessage : State :=
  { State.reset with enc := ⟨true, true, some 0xFF⟩, dec := ⟨true, 2#2, some 44, some 0, 5, false⟩ }

theorem midMessage_inv : midMessage.Inv := ⟨by decide, by decide⟩
theorem midMessage_started : midMessage.Started := by decide

theorem witness_StepRunsDecodedEvent :
    (State.reset.withFetchWord 11 0x443).pending = ⟨.dec, 0x043#10⟩ :: [] := by decide

theorem witness_IdleStepHoldsState : State.reset.pending = [] := by decide

/-- The last table word, the first in no bits at all, and the first number that is none. -/
theorem witness_TableWordIsRunNext :
    (2047 < 2048 ∧ 2047 < 2 ^ 11) ∧ (0 < 2048 ∧ 0 < 2 ^ 0) ∧ 2048 ≤ 2048 := by decide

theorem witness_OperationMapSelectsRow : 0 < 2048 ∧ 2047 < 2048 := by decide

theorem witness_IgnoredBitsHaveNoEffect_reset :
    0x200#10 &&& 0x200#10 = 0x200#10 ∧ 0x3FF#10 &&& 0x200#10 = 0x200#10 := by decide

theorem witness_IgnoredBitsHaveNoEffect_end :
    0x100#10 &&& 0x300#10 = 0x100#10 ∧ 0x1FF#10 &&& 0x300#10 = 0x100#10 := by decide

theorem witness_IgnoredBitsHaveNoEffect_accepts : midMessage.Inv ∧ midMessage.Started :=
  ⟨midMessage_inv, midMessage_started⟩

theorem witness_RomTablesAreInverse : romI 0x3A = some 44 ∧ alphabet[(44 : Digit).toNat]? = some 0x3A := by decide

theorem witness_DigitsAndHornerInvert : 91124 < 45 ^ 3 ∧ ∀ d ∈ [44, 0, 44], d < 45 := by decide

theorem witness_EncoderDigitBounds : 65535 ≤ 65535 ∧ 255 ≤ 255 := by decide

theorem witness_DecoderValuesTruncate :
    (44 : Digit).toNat ≤ 44 ∧ (44 : Digit).toNat ≤ 44 ∧ (44 : Digit).toNat ≤ 44 := by decide

theorem witness_EncDataHoldsOrCompletesPair_first :
    (encAt false none).enc.started = true ∧ (encAt false none).enc.held = false := by decide

theorem witness_EncDataHoldsOrCompletesPair_second :
    midMessage.enc.started = true ∧ midMessage.enc.held = true ∧ midMessage.enc.hi = some 0xFF := by decide

theorem witness_EncEndClosesMessage_even :
    State.reset.enc.started = true ∧ State.reset.enc.held = false := by decide

theorem witness_EncEndClosesMessage_odd :
    (encAt true (some 0)).enc.started = true ∧ (encAt true (some 0)).enc.held = true ∧
    (encAt true (some 0)).enc.hi = some 0 := by decide

theorem witness_DecCharDecodesCharacter_draining :
    (decAt 2#2 (some 0) (some 0) 5 true).dec.started = true ∧ (decAt 2#2 (some 0) (some 0) 5 true).dec.failed = true := by decide

theorem witness_DecCharDecodesCharacter_invalid :
    State.reset.dec.started = true ∧ State.reset.dec.failed = false ∧ romI 0x21 = none ∧ romI 0xFF = none := by decide

theorem witness_DecCharDecodesCharacter_first :
    State.reset.dec.started = true ∧ State.reset.dec.failed = false ∧ romI 0x3A = some 44 ∧ State.reset.dec.cnt = 0#2 := by
  decide

theorem witness_DecCharDecodesCharacter_second :
    (decAt 1#2 (some 44) none 1 false).dec.started = true ∧ (decAt 1#2 (some 44) none 1 false).dec.failed = false ∧
    romI 0x30 = some 0 ∧ (decAt 1#2 (some 44) none 1 false).dec.cnt = 1#2 := by decide

theorem witness_DecCharDecodesCharacter_third :
    midMessage.dec.started = true ∧ midMessage.dec.failed = false ∧ romI 0x3A = some 44 ∧ midMessage.dec.cnt = 2#2 ∧
    midMessage.dec.d1 = some 0 ∧ midMessage.dec.d0 = some 44 := by decide

theorem witness_DecEndClosesMessage_draining :
    (decAt 0#2 none none 0 true).dec.started = true ∧ (decAt 0#2 none none 0 true).dec.failed = true := by decide

theorem witness_DecEndClosesMessage_complete :
    State.reset.dec.started = true ∧ State.reset.dec.failed = false ∧ State.reset.dec.cnt = 0#2 := by decide

theorem witness_DecEndClosesMessage_tail :
    midMessage.dec.started = true ∧ midMessage.dec.failed = false ∧ midMessage.dec.cnt = 2#2 ∧ midMessage.dec.d1 = some 0 ∧
    midMessage.dec.d0 = some 44 := by decide

theorem witness_DecEndClosesMessage_dangling :
    (decAt 1#2 (some 44) none 1 false).dec.started = true ∧ (decAt 1#2 (some 44) none 1 false).dec.failed = false ∧
    (decAt 1#2 (some 44) none 1 false).dec.cnt = 1#2 ∧ (decAt 1#2 (some 44) none 1 false).dec.d0 = some 44 ∧
    (44 : Digit).toNat ≤ 44 ∧ (decAt 1#2 (some 44) none 1 false).dec.pos = 0 + 1 := by decide

theorem witness_UnguardedReadsFault_hi :
    (encAt true none).enc.started = true ∧ (encAt true none).enc.held = true ∧ (encAt true none).enc.hi = none := by decide

theorem witness_UnguardedReadsFault_d1 :
    (decAt 2#2 none none 2 false).dec.started = true ∧ (decAt 2#2 none none 2 false).dec.failed = false ∧
    (decAt 2#2 none none 2 false).dec.cnt = 2#2 ∧ (decAt 2#2 none none 2 false).dec.d1 = none ∧ romI 0x30 = some 0 := by decide

theorem witness_UnguardedReadsFault_d0 :
    (decAt 2#2 none (some 0) 2 false).dec.started = true ∧ (decAt 2#2 none (some 0) 2 false).dec.failed = false ∧
    (decAt 2#2 none (some 0) 2 false).dec.cnt = 2#2 ∧ (decAt 2#2 none (some 0) 2 false).dec.d1 = some 0 ∧
    (decAt 2#2 none (some 0) 2 false).dec.d0 = none ∧ romI 0x30 = some 0 := by decide

theorem witness_UnguardedReadsFault_dangling :
    (decAt 1#2 none none 1 false).dec.started = true ∧ (decAt 1#2 none none 1 false).dec.failed = false ∧
    (decAt 1#2 none none 1 false).dec.cnt = 1#2 ∧ (decAt 1#2 none none 1 false).dec.d0 = none := by decide

theorem witness_UnguardedReadsFault_romAddress :
    (decAt 1#2 (some 45) none 1 false).dec.started = true ∧ (decAt 1#2 (some 45) none 1 false).dec.failed = false ∧
    (decAt 1#2 (some 45) none 1 false).dec.cnt = 1#2 ∧ (decAt 1#2 (some 45) none 1 false).dec.d0 = some 45 ∧
    45 ≤ (45 : Digit).toNat ∧ faultOf (exec (.decEnd 0) (decAt 1#2 (some 45) none 1 false)) = some (.romAddress 45) := by decide

theorem witness_CountThreeTakesLastBranch :
    (decAt 3#2 (some 44) (some 44) 0 false).dec.started = true ∧ (decAt 3#2 (some 44) (some 44) 0 false).dec.failed = false ∧
    (decAt 3#2 (some 44) (some 44) 0 false).dec.cnt = 3#2 ∧ romI 0x3A = some 44 ∧
    (decAt 3#2 (some 44) (some 44) 0 false).dec.d1 = some 44 ∧ (decAt 3#2 (some 44) (some 44) 0 false).dec.d0 = some 44 ∧
    (44 : Digit).toNat ≤ 44 := by decide

theorem witness_BeforeResetOnlyResetRuns :
    State.powerUp.enc.started = false ∧ State.powerUp.dec.started = false := by decide

theorem witness_ResetStateValues :
    (∃ t, exec (.encReset 0x1FF) midMessage = .next t) ∧ ∃ t, exec (.decReset 0) midMessage = .next t :=
  ⟨⟨_, rfl⟩, ⟨_, rfl⟩⟩

theorem witness_StepKeepsInvariant :
    (midMessage.withFetchWord 11 0x500).Inv ∧ ∃ t, step (midMessage.withFetchWord 11 0x500) = .next t :=
  ⟨⟨by decide, by decide⟩, ⟨_, rfl⟩⟩

/-- The refusal that the statement allows: an event before the first RESET. -/
theorem witness_InvariantRulesOutFaults :
    (State.powerUp.withFetchWord 11 0x000).Inv ∧ step (State.powerUp.withFetchWord 11 0x000) = .refused (.beforeReset .enc) :=
  ⟨⟨by decide, by decide⟩, rfl⟩

theorem witness_StartedBlocksAcceptEveryEvent : midMessage.Inv ∧ midMessage.Started := ⟨midMessage_inv, midMessage_started⟩

theorem witness_PresentedEventsAreAllAccepted :
    (midMessage.present [.encEnd 0, .decChar 0x21]).Inv ∧ (midMessage.present [.encEnd 0, .decChar 0x21]).Started :=
  ⟨⟨by decide, by decide⟩, by decide⟩

theorem witness_StepKeepsOutputLegal :
    (midMessage.withFetchWord 11 0x421).OutLegal ∧ ∃ t, step (midMessage.withFetchWord 11 0x421) = .next t :=
  ⟨⟨by decide, by decide⟩, ⟨_, rfl⟩⟩

theorem witness_EventsOnlyAppendOutput :
    (∃ t, exec (.encEnd 0) midMessage = .next t) ∧ ∀ g, Instr.encEnd 0 ≠ .encReset g ∧ Instr.encEnd 0 ≠ .decReset g :=
  ⟨⟨_, rfl⟩, fun _ => ⟨nofun, nofun⟩⟩

/-- Both errors are raised somewhere. -/
theorem witness_ErrorsAreRaisedExactlyThere :
    (midMessage.Inv ∧ midMessage.Raises (.decChar 0x21) .invalidCharacter 0x21 5 ∧ ∃ t, exec (.decChar 0x21) midMessage = .next t ∧
      t.decOut.inFlight = midMessage.decOut.inFlight ++ [.error .invalidCharacter 0x21 5]) ∧
    ((decAt 1#2 (some 44) none 1 false).Inv ∧
      (decAt 1#2 (some 44) none 1 false).Raises (.decEnd 0) .danglingCharacter 0x3A 0 ∧
      ∃ t, exec (.decEnd 0) (decAt 1#2 (some 44) none 1 false) = .next t ∧
      t.decOut.inFlight = (decAt 1#2 (some 44) none 1 false).decOut.inFlight ++ [.error .danglingCharacter 0x3A 0]) :=
  ⟨⟨midMessage_inv, by decide, _, rfl, by decide⟩,
    ⟨⟨by decide, by decide⟩, ⟨rfl, .inr ⟨0, 44, by decide⟩⟩, _, rfl, by decide⟩⟩

theorem witness_FailedStateEnteredAndLeft :
    (∃ t, exec (.decChar 0x21) midMessage = .next t ∧ midMessage.dec.failed = false ∧ t.dec.failed = true) ∧
    (∃ t, exec (.decEnd 0) (decAt 2#2 (some 0) (some 0) 5 true) = .next t ∧
      (decAt 2#2 (some 0) (some 0) 5 true).dec.failed = true ∧ t.dec.failed = false) :=
  ⟨⟨_, rfl, by decide, by decide⟩, ⟨_, rfl, by decide, by decide⟩⟩

theorem witness_FailedStateIsSilent :
    (decAt 2#2 (some 0) (some 0) 5 true).dec.failed = true ∧ (∀ g, Instr.decChar 0x30 ≠ .decReset g) ∧
    ∃ t, exec (.decChar 0x30) (decAt 2#2 (some 0) (some 0) 5 true) = .next t :=
  ⟨by decide, nofun, _, rfl⟩

theorem witness_BlocksLeaveEachOtherAlone :
    (∃ t, exec (.encData 1) midMessage = .next t) ∧ (Instr.encData 1).port = .enc ∧
    (∃ t, exec (.decChar 0x30) midMessage = .next t) ∧ (Instr.decChar 0x30).port = .dec :=
  ⟨⟨_, rfl⟩, rfl, ⟨_, rfl⟩, rfl⟩

theorem witness_CrossPortEventsCommute :
    (Instr.encData 1).port = .enc ∧ (Instr.decEnd 0).port = .dec ∧ ∃ t, execAll [.encData 1, .decEnd 0] midMessage = .next t :=
  ⟨rfl, rfl, _, rfl⟩

theorem witness_InterleavingIsUnobservable :
    (∃ t, execAll [.encData 1, .decEnd 0, .encEnd 0] midMessage = .next t) ∧
    (∃ u, execAll ([Instr.encData 1, .decEnd 0, .encEnd 0].filter fun i => i.port = .enc) midMessage = .next u) ∧
    (∃ v, execAll ([Instr.encData 1, .decEnd 0, .encEnd 0].filter fun i => i.port = .dec) midMessage = .next v) :=
  ⟨⟨_, rfl⟩, ⟨_, rfl⟩, ⟨_, rfl⟩⟩

/-- Of two undelivered events none, one or both may be delivered. -/
theorem witness_ResetDeliversAnyPrefix :
    ([] : List EncOut) <+: [.char 0x30, .done] ∧ [EncOut.char 0x30] <+: [.char 0x30, .done] ∧
    [EncOut.char 0x30, .done] <+: [.char 0x30, .done] := by decide

theorem witness_RunFollowsPresentedEvents :
    (State.reset.present [.encData 0x61, .decEnd 0]).pending = [Instr.encData 0x61, .decEnd 0].map encode ++ [] := by decide

theorem witness_LengthLawAndClosure : decodeMsg [0x30, 0x45, 0x43, 0x42, 0x32] = .ok [0x61, 0x62, 0x65] := by decide

/-- The invalid character is last, at a position that starts a group. -/
theorem witness_ErrorNamesLowestInvalid : ∃ c ∈ ([0x30, 0x45, 0x43, 0x21] : List Byte), romI c = none := by decide

theorem witness_ValidTextDecodesOrDangles :
    ((∀ c ∈ ([] : List Byte), romI c ≠ none) ∧ ([] : List Byte).length % 3 ≠ 1) ∧
    ((∀ c ∈ ([0x3A, 0x20] : List Byte), romI c ≠ none) ∧ ([0x3A, 0x20] : List Byte).length % 3 ≠ 1) ∧
    ((∀ c ∈ ([0x3A] : List Byte), romI c ≠ none) ∧ ([0x3A] : List Byte).length % 3 = 1) := by decide

/-- The ends of each range of invalid codes. -/
theorem witness_DocumentFixtures :
    0x61 ≤ (0x61 : Byte).toNat ∧ (0x7A : Byte).toNat ≤ 0x7A ∧ (0x0D : Byte) ∈ [0x09, 0x0A, 0x0D] ∧
    0x80 ≤ (0x80 : Byte).toNat ∧ 0x80 ≤ (0xFF : Byte).toNat := by decide

/-- The bounds, and a smallest out-of-range group and tail (V35, V31). -/
theorem witness_OutOfRangeGroupsDecode :
    (16 ≤ 44 ∧ 16 ≤ 44 ∧ 32 ≤ 44 ∧ 65535 < horner [16, 16, 32] ∧ ¬ 65535 < horner [15, 16, 32] ∧
      255 < horner [31, 5] ∧ ¬ 255 < horner [30, 5]) ∧
    romI 0x47 = some 16 ∧ romI 0x57 = some 32 ∧ romI 0x3A = some 44 := by decide

theorem witness_EncoderRefinesEncode :
    (State.reset.present (encodeProgram [0xFF])).enc.AtStart ∧
    (State.reset.present (encodeProgram [0xFF])).pending = (encodeProgram [0xFF]).map encode ++ [] := by decide

/-- A message that fails at its second character, with a held digit left over from an earlier message. -/
theorem witness_DecoderRefinesDecode :
    ((decAt 0#2 (some 44) (some 44) 0 false).present (decodeProgram [0x30, 0x21, 0x30])).dec.AtStart ∧
    ((decAt 0#2 (some 44) (some 44) 0 false).present (decodeProgram [0x30, 0x21, 0x30])).pending =
      (decodeProgram [0x30, 0x21, 0x30]).map encode ++ [] ∧
    decodeMsg [0x30, 0x21, 0x30] = .err .invalidCharacter 0x21 1 [] := by decide

theorem witness_EncoderFeedsDecoder : State.reset.enc.AtStart ∧ State.reset.dec.AtStart := by decide

theorem witness_EncoderMessagesAreIndependent : (encAt false (some 0x61)).enc.AtStart := by decide

theorem witness_DecoderMessagesAreIndependent : (decAt 0#2 (some 11) (some 2) 0 false).dec.AtStart := by decide

theorem witness_UnclosedEncoderMessage : State.reset.enc.AtStart := by decide

theorem witness_UnclosedDecoderMessage :
    State.reset.dec.AtStart ∧ ∀ c ∈ ([0x30, 0x3A, 0x20, 0x41] : List Byte), romI c ≠ none := by decide

/-- The largest position of a field, and the only one of an empty field. -/
theorem witness_OutputWordFormat : 2 ^ 32 - 1 < 2 ^ Config.posW ∧ 0 < 2 ^ 0 := by decide

theorem witness_OutputWordsDetermineEvents :
    decOutWord 32 (.error .danglingCharacter 0x20 3) = some ⟨0x220, 2, 3⟩ ∧ decOutWord 0 .done = some ⟨0x100, 0, 0⟩ := by decide

/-- The smallest position that does not fit. -/
theorem witness_PositionsInRangeHaveWords_tooLarge : 2 ^ Config.posW ≤ 4294967296 := by decide

theorem witness_PositionsInRangeHaveWords :
    midMessage.PosInRange Config.posW ∧ ∃ t, exec (.decChar 0x21) midMessage = .next t ∧
      t.decOut.inFlight = midMessage.decOut.inFlight ++ [.error .invalidCharacter 0x21 5] :=
  ⟨by decide, _, rfl, by decide⟩

end Sys2Proof.Tests
end

section
/-! SUPPORT. Where the register reads and the operations fault and where they are refused: the counterparts, for the two
stops, of the `_next` lemmas of Laws/Exec.lean (R35, R67, R220). -/

namespace Sys2Proof.Machine

/-! ### Register and table reads -/

section
variable {α : Type} {r : Register} {v : Option α} {k : α → Result}

theorem readReg_eq_fault {f : Fault} :
    readReg r v k = .fault f ↔ (v = none ∧ f = .unwrittenRead r) ∨ ∃ a, v = some a ∧ k a = .fault f := by
  cases v <;> simp [eq_comm]

/-- A register read is never refused itself. -/
theorem readReg_ne_refused {q : Refusal} (hk : ∀ a, k a ≠ .refused q) : readReg r v k ≠ .refused q := by
  cases v with
  | none => simp
  | some a => exact hk a

end

theorem readRomA_eq_fault {a : Digit} {k : Byte → Result} {f : Fault} :
    readRomA a k = .fault f ↔ (romA a = none ∧ f = .romAddress a) ∨ ∃ c, romA a = some c ∧ k c = .fault f := by
  unfold readRomA
  cases romA a <;> simp [eq_comm]

/-- A read of ROM_A is never refused itself. -/
theorem readRomA_ne_refused {a : Digit} {k : Byte → Result} {q : Refusal} (hk : ∀ c, k c ≠ .refused q) :
    readRomA a k ≠ .refused q := by
  unfold readRomA
  cases romA a with
  | none => simp
  | some c => exact hk c

/-! ### Where an operation faults -/

section
variable {s : State} {f : Fault}

theorem exec_encData_fault {data : Byte} :
    exec (.encData data) s = .fault f ↔
      s.enc.started = true ∧ s.enc.held = true ∧ s.enc.hi = none ∧ f = .unwrittenRead .encHi := by
  simp only [exec, execEncData, whenStarted_eq_fault, State.startedAt_enc]
  cases s.enc.held <;> simp [readReg_eq_fault]

theorem exec_encEnd_fault {g : BitVec 8} :
    exec (.encEnd g) s = .fault f ↔
      s.enc.started = true ∧ s.enc.held = true ∧ s.enc.hi = none ∧ f = .unwrittenRead .encHi := by
  simp only [exec, execEncEnd, whenStarted_eq_fault, State.startedAt_enc]
  cases s.enc.held <;> simp [readReg_eq_fault]

/-- A digit faults only where it completes a group and a held digit has no value. -/
theorem acceptDigit_fault {d : Digit} :
    acceptDigit d s = .fault f ↔ s.dec.cnt ≠ 0#2 ∧ s.dec.cnt ≠ 1#2 ∧
      ((s.dec.d1 = none ∧ f = .unwrittenRead .decD1) ∨
       ((∃ d1, s.dec.d1 = some d1) ∧ s.dec.d0 = none ∧ f = .unwrittenRead .decD0)) := by
  unfold acceptDigit
  by_cases h0 : s.dec.cnt = 0#2
  · simp [h0]
  · by_cases h1 : s.dec.cnt = 1#2
    · simp [h1]
    · simp [h0, h1, readReg_eq_fault]

theorem exec_decChar_fault {data : Byte} :
    exec (.decChar data) s = .fault f ↔ s.dec.started = true ∧ s.dec.failed = false ∧
      ∃ d, romI data = some d ∧ acceptDigit d s = .fault f := by
  simp only [exec, execDecChar, whenStarted_eq_fault, State.startedAt_dec]
  cases s.dec.failed
  · cases romI data <;> simp
  · simp

theorem exec_decEnd_fault {g : BitVec 8} :
    exec (.decEnd g) s = .fault f ↔ s.dec.started = true ∧ s.dec.failed = false ∧
      ((s.dec.cnt = 2#2 ∧
          ((s.dec.d1 = none ∧ f = .unwrittenRead .decD1) ∨
           ((∃ d1, s.dec.d1 = some d1) ∧ s.dec.d0 = none ∧ f = .unwrittenRead .decD0))) ∨
       (s.dec.cnt ≠ 0#2 ∧ s.dec.cnt ≠ 2#2 ∧
          ((s.dec.d0 = none ∧ f = .unwrittenRead .decD0) ∨
           ∃ a, s.dec.d0 = some a ∧ romA a = none ∧ f = .romAddress a))) := by
  simp only [exec, execDecEnd, whenStarted_eq_fault, State.startedAt_dec]
  cases s.dec.failed
  · by_cases h0 : s.dec.cnt = 0#2
    · simp [h0]
    · by_cases h2 : s.dec.cnt = 2#2
      · simp [h2, readReg_eq_fault]
      · simp [h0, h2, readReg_eq_fault, readRomA_eq_fault]
  · simp

end

/-! ### Where an operation is refused -/

theorem acceptDigit_ne_refused (d : Digit) (s : State) (q : Refusal) : acceptDigit d s ≠ .refused q := by
  unfold acceptDigit
  split
  · nofun
  · split
    · nofun
    · exact readReg_ne_refused fun _ => readReg_ne_refused nofun

/-- A guarded event whose body is never refused is refused only before the first RESET of its block. -/
theorem beforeReset_of_whenStarted_refused {p : Port} {s : State} {k : Result} {q : Refusal} (hk : k ≠ .refused q)
    (h : whenStarted p s k = .refused q) : q = .beforeReset p ∧ s.startedAt p = false := by
  obtain ⟨hs, hq⟩ | ⟨-, hr⟩ := whenStarted_eq_refused.mp h
  · exact ⟨hq, hs⟩
  · exact absurd hr hk

/-- Every refusal of an operation is the one of a block before its first RESET, in every state (R220, U10). -/
theorem exec_refused {i : Instr} {s : State} {q : Refusal} (h : exec i s = .refused q) :
    q = .beforeReset i.port ∧ s.startedAt i.port = false := by
  cases i with
  | encReset g => cases h
  | encData data =>
    refine beforeReset_of_whenStarted_refused ?_ h
    split
    · exact readReg_ne_refused nofun
    · nofun
  | encEnd g =>
    refine beforeReset_of_whenStarted_refused ?_ h
    split
    · exact readReg_ne_refused nofun
    · nofun
  | decReset g => cases h
  | decChar data =>
    refine beforeReset_of_whenStarted_refused ?_ h
    split
    · nofun
    · split
      · nofun
      · exact acceptDigit_ne_refused _ s q
  | decEnd g =>
    refine beforeReset_of_whenStarted_refused ?_ h
    split
    · nofun
    · split
      · nofun
      · split
        · exact readReg_ne_refused fun _ => readReg_ne_refused nofun
        · exact readReg_ne_refused fun _ => readRomA_ne_refused nofun

end Sys2Proof.Machine
end

section
/-! SUPPORT. An operation of one block leaves the other block's registers and output as they are (R20, R68). -/

namespace Sys2Proof.Machine

variable {i : Instr} {s t : State}

theorem exec_enc_frame (hp : i.port = .enc) (h : exec i s = .next t) : t.dec = s.dec ∧ t.decOut = s.decOut := by
  cases i with
  | encReset g => obtain rfl := exec_encReset_next.mp h; simp
  | encData data => obtain ⟨-, ⟨-, rfl⟩ | ⟨-, hi, -, rfl⟩⟩ := exec_encData_next.mp h <;> simp
  | encEnd g => obtain ⟨-, ⟨-, rfl⟩ | ⟨-, hi, -, rfl⟩⟩ := exec_encEnd_next.mp h <;> simp
  | decReset g | decChar data | decEnd g => cases hp

theorem acceptDigit_frame {d : Digit} (h : acceptDigit d s = .next t) : t.enc = s.enc ∧ t.encOut = s.encOut := by
  obtain ⟨-, rfl⟩ | ⟨-, rfl⟩ | ⟨-, -, d1, d0, -, -, rfl⟩ := acceptDigit_next.mp h <;> simp

theorem exec_dec_frame (hp : i.port = .dec) (h : exec i s = .next t) : t.enc = s.enc ∧ t.encOut = s.encOut := by
  cases i with
  | encReset g | encData data | encEnd g => cases hp
  | decReset g => obtain rfl := exec_decReset_next.mp h; simp
  | decChar data =>
    obtain ⟨-, ⟨-, rfl⟩ | ⟨-, -, rfl⟩ | ⟨-, d, -, ha⟩⟩ := exec_decChar_next.mp h
    · simp
    · simp
    · exact acceptDigit_frame ha
  | decEnd g =>
    obtain ⟨-, ⟨-, rfl⟩ | ⟨-, -, rfl⟩ | ⟨-, -, d1, d0, -, -, rfl⟩ | ⟨-, -, -, d0, c, -, -, rfl⟩⟩ :=
      exec_decEnd_next.mp h <;> simp

end Sys2Proof.Machine
end

section
/-! SUPPORT. The register invariant: which register updates keep it, that every operation keeps it, and which faults it rules
out (R35, R36). -/

namespace Sys2Proof.Machine

/-! ### The updates of the registers -/

section
variable {e : EncState} {x : DecState}

theorem EncState.inv_afterReset : EncState.afterReset.Inv := nofun

/-- A block before its first RESET is not constrained (R220). -/
theorem EncState.inv_of_not_started (h : e.started = false) : e.Inv := by simp [EncState.Inv, h]

theorem EncState.inv_hold (b : Byte) : (e.hold b).Inv := fun _ _ => rfl

theorem EncState.inv_release : e.release.Inv := nofun

theorem DecState.inv_afterReset : DecState.afterReset.Inv := by simp [DecState.Inv]

/-- A block before its first RESET is not constrained (R220). -/
theorem DecState.inv_of_not_started (h : x.started = false) : x.Inv := by simp [DecState.Inv, h]

theorem DecState.Inv.holdFirst {d : Digit} (h : x.Inv) (hc : x.cnt = 0#2) (hd : d.toNat ≤ 44) : (x.holdFirst d).Inv := by
  intro hs
  obtain ⟨-, hpos, -, hd1, -, -⟩ := h hs
  have hpos' : x.failed = false → 1 = (x.pos + 1) % 3 := fun hf => by
    have := hpos hf
    simp only [hc, BitVec.toNat_ofNat] at this
    omega
  simpa [hd] using ⟨hpos', hd1⟩

theorem DecState.Inv.holdSecond {d : Digit} (h : x.Inv) (hc : x.cnt = 1#2) (hd : d.toNat ≤ 44) : (x.holdSecond d).Inv := by
  intro hs
  obtain ⟨-, hpos, hd0, -, hsome0, -⟩ := h hs
  have hpos' : x.failed = false → 2 = (x.pos + 1) % 3 := fun hf => by
    have := hpos hf
    simp only [hc, BitVec.toNat_ofNat] at this
    omega
  simpa [hd] using ⟨hpos', hd0, hsome0 (by simp [hc])⟩

/-- A count other than 0 and 1 is 2 under the invariant, so the group that closes is full. -/
theorem DecState.Inv.closeGroup (h : x.Inv) (h0 : x.cnt ≠ 0#2) (h1 : x.cnt ≠ 1#2) : x.closeGroup.Inv := by
  intro hs
  obtain ⟨h3, hpos, hd0, hd1, -, -⟩ := h hs
  have hc : x.cnt.toNat = 2 := by bv_omega
  have hpos' : x.failed = false → 0 = (x.pos + 1) % 3 := fun hf => by
    have := hpos hf
    omega
  simpa using ⟨hpos', hd0, hd1⟩

/-- Entering the failed state keeps the invariant: the count and the held digits are left (R197). -/
theorem DecState.Inv.fail (h : x.Inv) : DecState.Inv { x with failed := true } := by
  intro hs
  obtain ⟨h3, -, hd0, hd1, hsome0, hsome1⟩ := h hs
  exact ⟨h3, nofun, hd0, hd1, hsome0, hsome1⟩

/-- Starting a message keeps the invariant: the held digits are left and no longer guarded (R162, R200). -/
theorem DecState.Inv.startMessage (h : x.Inv) : DecState.Inv { x with cnt := 0#2, pos := 0, failed := false } := by
  intro hs
  obtain ⟨-, -, hd0, hd1, -, -⟩ := h hs
  simpa using ⟨hd0, hd1⟩

end

/-! ### The operations keep the invariant -/

section
variable {i : Instr} {s t : State}

theorem exec_keeps_encInv (h : s.enc.Inv) (ht : exec i s = .next t) : t.enc.Inv := by
  cases i with
  | encReset g =>
    obtain rfl := exec_encReset_next.mp ht
    exact EncState.inv_afterReset
  | encData data =>
    obtain ⟨-, ⟨-, rfl⟩ | ⟨-, hi, -, rfl⟩⟩ := exec_encData_next.mp ht
    · exact EncState.inv_hold data
    · exact EncState.inv_release
  | encEnd g =>
    obtain ⟨-, ⟨-, rfl⟩ | ⟨-, hi, -, rfl⟩⟩ := exec_encEnd_next.mp ht
    · exact EncState.inv_release
    · exact EncState.inv_release
  | decReset g | decChar data | decEnd g => rwa [(exec_dec_frame rfl ht).1]

theorem acceptDigit_keeps_decInv {d : Digit} (h : s.dec.Inv) (hd : d.toNat ≤ 44) (ht : acceptDigit d s = .next t) :
    t.dec.Inv := by
  obtain ⟨hc, rfl⟩ | ⟨hc, rfl⟩ | ⟨h0, h1, d1, d0, -, -, rfl⟩ := acceptDigit_next.mp ht
  · exact h.holdFirst hc hd
  · exact h.holdSecond hc hd
  · exact h.closeGroup h0 h1

theorem exec_keeps_decInv (h : s.dec.Inv) (ht : exec i s = .next t) : t.dec.Inv := by
  cases i with
  | encReset g | encData data | encEnd g => rwa [(exec_enc_frame rfl ht).1]
  | decReset g =>
    obtain rfl := exec_decReset_next.mp ht
    exact DecState.inv_afterReset
  | decChar data =>
    obtain ⟨-, ⟨-, rfl⟩ | ⟨-, -, rfl⟩ | ⟨-, d, hd, ha⟩⟩ := exec_decChar_next.mp ht
    · exact h
    · exact h.fail
    · exact acceptDigit_keeps_decInv h (romI_le data d hd) ha
  | decEnd g =>
    obtain ⟨-, ⟨-, rfl⟩ | ⟨-, -, rfl⟩ | ⟨-, -, d1, d0, -, -, rfl⟩ | ⟨-, -, -, d0, c, -, -, rfl⟩⟩ :=
      exec_decEnd_next.mp ht <;> exact h.startMessage

/-- Every operation keeps the register invariant (R35, R36). -/
theorem exec_keeps_inv (h : s.Inv) (ht : exec i s = .next t) : t.Inv :=
  ⟨exec_keeps_encInv h.enc ht, exec_keeps_decInv h.dec ht⟩

/-! ### The invariant rules out faults -/

theorem acceptDigit_ne_fault_of_inv (h : s.dec.Inv) (hs : s.dec.started = true) (d : Digit) (f : Fault) :
    acceptDigit d s ≠ .fault f := by
  intro hf
  obtain ⟨h3, -, -, -, hsome0, hsome1⟩ := h hs
  obtain ⟨h0, h1, ⟨hnone, -⟩ | ⟨-, hnone, -⟩⟩ := acceptDigit_fault.mp hf
  · have hc : s.dec.cnt = 2#2 := by bv_omega
    simpa [hnone] using hsome1 hc
  · have hc : 1 ≤ s.dec.cnt.toNat := by bv_omega
    simpa [hnone] using hsome0 hc

theorem exec_ne_fault_of_inv (h : s.Inv) (i : Instr) (f : Fault) : exec i s ≠ .fault f := by
  intro hf
  cases i with
  | encReset g | decReset g => cases hf
  | encData data =>
    obtain ⟨hs, hheld, hnone, -⟩ := exec_encData_fault.mp hf
    simpa [hnone] using h.enc hs hheld
  | encEnd g =>
    obtain ⟨hs, hheld, hnone, -⟩ := exec_encEnd_fault.mp hf
    simpa [hnone] using h.enc hs hheld
  | decChar data =>
    obtain ⟨hs, -, d, -, ha⟩ := exec_decChar_fault.mp hf
    exact acceptDigit_ne_fault_of_inv h.dec hs d f ha
  | decEnd g =>
    obtain ⟨hs, -, hread⟩ := exec_decEnd_fault.mp hf
    obtain ⟨-, -, hd0, -, hsome0, hsome1⟩ := h.dec hs
    obtain ⟨h2, ⟨hnone, -⟩ | ⟨-, hnone, -⟩⟩ | ⟨h0, -, ⟨hnone, -⟩ | ⟨a, ha, hrom, -⟩⟩ := hread
    · simpa [hnone] using hsome1 h2
    · simpa [hnone] using hsome0 (by simp [h2])
    · simpa [hnone] using hsome0 (by bv_omega)
    · simp [romA_eq_some (hd0 a ha)] at hrom

end

/-! ### The invariant and the legality of the output at reset -/

theorem OutPort.fresh_stream (α : Type) : (OutPort.fresh α).stream = [] := rfl

theorem State.outLegal_of_fresh {s : State} (he : s.encOut = .fresh EncOut) (hd : s.decOut = .fresh DecOut) :
    s.OutLegal :=
  ⟨by simp [he, OutPort.fresh_stream], by simp [hd, OutPort.fresh_stream]⟩

end Sys2Proof.Machine
end

section
/-! SUPPORT. The bytes of a group as arithmetic on the digits (R86, R114). -/

namespace Sys2Proof.Machine

variable (d d1 d0 : Digit)

/-- The 17-bit working value loses nothing: even digits up to 63 stay below 2^17. -/
theorem decGroupValue_toNat (hd : d.toNat ≤ 44) :
    (decGroupValue d d1 d0).toNat = (d.toNat * 45 + d1.toNat) * 45 + d0.toNat := by
  rw [decGroupValue, BitVec.toNat_ofNat, Nat.mod_eq_of_lt]
  omega

theorem highByte_toNat (v : BitVec 17) : (v.extractLsb' 8 8).toNat = v.toNat / 256 % 256 := by
  simp [Nat.shiftRight_eq_div_pow]

theorem lowByte_toNat (v : BitVec 17) : (v.extractLsb' 0 8).toNat = v.toNat % 256 := by
  simp

end Sys2Proof.Machine
end

section
/-! SUPPORT. The branches of DEC.CHAR and DEC.END that the pseudocode reaches by `else`, for every count that falls under them
(R161, R162; log entry 6). -/

namespace Sys2Proof.Machine

variable {s : State} {d0 : Digit}

/-- A digit at a count other than 0 and 1 completes the group: high byte, then low byte. -/
theorem exec_decChar_completes_group {data : Byte} {d d1 : Digit} (hs : s.dec.started = true) (hf : s.dec.failed = false)
    (hd : romI data = some d) (hc0 : s.dec.cnt ≠ 0#2) (hc1 : s.dec.cnt ≠ 1#2) (h1 : s.dec.d1 = some d1)
    (h0 : s.dec.d0 = some d0) :
    exec (.decChar data) s = .next ((s.emitDec [.byte ((decGroupValue d d1 d0).extractLsb' 8 8),
      .byte ((decGroupValue d d1 d0).extractLsb' 0 8)]).setDec s.dec.closeGroup) :=
  exec_decChar_next.mpr ⟨hs, .inr (.inr ⟨hf, d, hd, acceptDigit_next.mpr (.inr (.inr ⟨hc0, hc1, d1, d0, h1, h0, rfl⟩))⟩)⟩

/-- END at a count other than 0 and 2 reports the character of the first held digit. -/
theorem exec_decEnd_dangles {g : BitVec 8} (hs : s.dec.started = true) (hf : s.dec.failed = false) (hc0 : s.dec.cnt ≠ 0#2)
    (hc2 : s.dec.cnt ≠ 2#2) (h0 : s.dec.d0 = some d0) (hle : d0.toNat ≤ 44) :
    exec (.decEnd g) s = .next
      (s.reportError .danglingCharacter (alphabet.getD d0.toNat 0) (s.dec.pos - 1)).startDecMessage :=
  exec_decEnd_next.mpr ⟨hs, .inr (.inr (.inr ⟨hf, hc0, hc2, d0, _, h0, romA_eq_some hle, rfl⟩))⟩

end Sys2Proof.Machine
end

section
/-! SUPPORT. What a step does, by the list of presented events (R65, R82, R206). -/

namespace Sys2Proof.Machine

variable {s : State}

theorem step_of_pending_nil (h : s.pending = []) : step s = .next s := by
  rw [step, State.fetch_nil h]

theorem step_of_pending_cons {e : PortWord} {rest : List PortWord} (h : s.pending = e :: rest) :
    step s = exec (decodeWord e.port e.word) { s with pending := rest } := by
  rw [step, State.fetch_cons h]

/-- The register invariant does not speak of the presented events. -/
theorem State.Inv.setPending (h : s.Inv) (l : List PortWord) : State.Inv { s with pending := l } := ⟨h.enc, h.dec⟩

end Sys2Proof.Machine
end

section
/-! SUPPORT. DEC in the failed state: silent until DEC.END or DEC.RESET (R27, R200, R201). -/

namespace Sys2Proof.Machine

variable {i : Instr} {s t : State}

/-- While draining, a character has no effect at all. -/
theorem exec_decChar_of_failed {data : Byte} (hf : s.dec.failed = true) (h : exec (.decChar data) s = .next t) : s = t := by
  obtain ⟨-, ⟨-, rfl⟩ | ⟨hn, -, -⟩ | ⟨hn, -⟩⟩ := exec_decChar_next.mp h
  · rfl
  · cases hf.symm.trans hn
  · cases hf.symm.trans hn

/-- DEC.END ends the draining and emits nothing. -/
theorem exec_decEnd_of_failed {g : BitVec 8} (hf : s.dec.failed = true) (h : exec (.decEnd g) s = .next t) :
    s.startDecMessage = t := by
  obtain ⟨-, ⟨-, rfl⟩ | ⟨hn, -⟩ | ⟨hn, -⟩ | ⟨hn, -⟩⟩ := exec_decEnd_next.mp h
  · rfl
  · cases hf.symm.trans hn
  · cases hf.symm.trans hn
  · cases hf.symm.trans hn

theorem acceptDigit_failed {d : Digit} (h : acceptDigit d s = .next t) : t.dec.failed = s.dec.failed := by
  obtain ⟨-, rfl⟩ | ⟨-, rfl⟩ | ⟨-, -, d1, d0, -, -, rfl⟩ := acceptDigit_next.mp h <;> simp

theorem exec_decEnd_failed {g : BitVec 8} (h : exec (.decEnd g) s = .next t) : t.dec.failed = false := by
  obtain ⟨-, ⟨-, rfl⟩ | ⟨-, -, rfl⟩ | ⟨-, -, d1, d0, -, -, rfl⟩ | ⟨-, -, -, d0, c, -, -, rfl⟩⟩ :=
    exec_decEnd_next.mp h <;> rfl

/-- The failed state is entered by an invalid character only. -/
theorem exec_enters_failed (h : exec i s = .next t) (hs : s.dec.failed = false) (ht : t.dec.failed = true) :
    ∃ c, i = .decChar c ∧ romI c = none := by
  cases i with
  | encReset g | encData data | encEnd g => rw [(exec_enc_frame rfl h).1, hs] at ht; cases ht
  | decReset g => obtain rfl := exec_decReset_next.mp h; cases ht
  | decChar data =>
    obtain ⟨-, ⟨hf, -⟩ | ⟨-, hrom, -⟩ | ⟨-, d, -, ha⟩⟩ := exec_decChar_next.mp h
    · cases hs.symm.trans hf
    · exact ⟨data, rfl, hrom⟩
    · rw [acceptDigit_failed ha, hs] at ht; cases ht
  | decEnd g => rw [exec_decEnd_failed h] at ht; cases ht

/-- The failed state is left by DEC.END and DEC.RESET only. -/
theorem exec_leaves_failed (h : exec i s = .next t) (hs : s.dec.failed = true) (ht : t.dec.failed = false) :
    (∃ g, i = .decEnd g) ∨ ∃ g, i = .decReset g := by
  cases i with
  | encReset g | encData data | encEnd g => rw [(exec_enc_frame rfl h).1, hs] at ht; cases ht
  | decReset g => exact .inr ⟨g, rfl⟩
  | decChar data => obtain rfl := exec_decChar_of_failed hs h; cases hs.symm.trans ht
  | decEnd g => exact .inl ⟨g, rfl⟩

end Sys2Proof.Machine
end

section
/-! The obligations of 10_state.md. -/

namespace Sys2Proof.Machine

/-- Settles O25: a step is idle or runs one operation, and every operation keeps the invariant. -/
theorem stepKeepsInvariant : Obligations.StepKeepsInvariant := by
  intro s t h ht
  cases hp : s.pending with
  | nil =>
    rw [step_of_pending_nil hp] at ht
    cases ht
    exact h
  | cons e rest =>
    rw [step_of_pending_cons hp] at ht
    exact exec_keeps_inv (h.setPending rest) ht

/-- Settles O26: no operation faults under the invariant, and a refusal is that of an unstarted block in every state. -/
theorem invariantRulesOutFaults : Obligations.InvariantRulesOutFaults := by
  intro s h
  cases hp : s.pending with
  | nil => simp [step_of_pending_nil hp]
  | cons e rest =>
    rw [step_of_pending_cons hp]
    refine ⟨exec_ne_fault_of_inv (h.setPending rest) _, fun q hq => ?_⟩
    obtain ⟨hr, hs⟩ := exec_refused hq
    exact ⟨_, hr, hs⟩

/-- Settles O32, by what each operation leaves in `failed`. -/
theorem failedStateEnteredAndLeft : Obligations.FailedStateEnteredAndLeft :=
  fun _ _ _ h => ⟨exec_enters_failed h, exec_leaves_failed h⟩

/-- Settles O33: ENC does not touch DEC, a character is drained, and DEC.END emits nothing. -/
theorem failedStateIsSilent : Obligations.FailedStateIsSilent := by
  intro i s t hf hi h
  cases i with
  | encReset g | encData data | encEnd g => exact ⟨(exec_enc_frame rfl h).2, nofun⟩
  | decReset g => exact absurd rfl (hi g)
  | decChar data =>
    obtain rfl := exec_decChar_of_failed hf h
    exact ⟨rfl, fun _ _ => rfl⟩
  | decEnd g =>
    obtain rfl := exec_decEnd_of_failed hf h
    exact ⟨rfl, nofun⟩

/-- Settles O20: each clause is a case of the `_fault` lemma of the operation. -/
theorem unguardedReadsFault : Obligations.UnguardedReadsFault := by
  intro s
  refine ⟨?_, ?_, ?_, ?_, ?_⟩
  · intro hs hheld hnone
    exact ⟨fun _ => exec_encData_fault.mpr ⟨hs, hheld, hnone, rfl⟩,
      fun _ => exec_encEnd_fault.mpr ⟨hs, hheld, hnone, rfl⟩⟩
  · intro hs hf hc h1
    exact ⟨fun _ d hd => exec_decChar_fault.mpr
        ⟨hs, hf, d, hd, acceptDigit_fault.mpr ⟨by simp [hc], by simp [hc], .inl ⟨h1, rfl⟩⟩⟩,
      fun _ => exec_decEnd_fault.mpr ⟨hs, hf, .inl ⟨hc, .inl ⟨h1, rfl⟩⟩⟩⟩
  · intro d1 hs hf hc h1 h0
    exact ⟨fun _ d hd => exec_decChar_fault.mpr
        ⟨hs, hf, d, hd, acceptDigit_fault.mpr ⟨by simp [hc], by simp [hc], .inr ⟨⟨d1, h1⟩, h0, rfl⟩⟩⟩,
      fun _ => exec_decEnd_fault.mpr ⟨hs, hf, .inl ⟨hc, .inr ⟨⟨d1, h1⟩, h0, rfl⟩⟩⟩⟩
  · intro hs hf hc h0 g
    exact exec_decEnd_fault.mpr ⟨hs, hf, .inr ⟨by simp [hc], by simp [hc], .inl ⟨h0, rfl⟩⟩⟩
  · intro a hs hf hc h0 ha g
    exact exec_decEnd_fault.mpr ⟨hs, hf, .inr ⟨by simp [hc], by simp [hc], .inr ⟨a, h0, romA_eq_none ha, rfl⟩⟩⟩

/-- Settles O21: 3 is neither 0 nor 1, so DEC.CHAR completes a group, and neither 0 nor 2, so DEC.END reports a dangling
character. -/
theorem countThreeTakesLastBranch : Obligations.CountThreeTakesLastBranch := by
  intro s data d d1 d0 g hs hf hc hd h1 h0 hle
  have hc0 : s.dec.cnt ≠ 0#2 := by simp [hc]
  have hc1 : s.dec.cnt ≠ 1#2 := by simp [hc]
  have hc2 : s.dec.cnt ≠ 2#2 := by simp [hc]
  have hv := decGroupValue_toNat d d1 d0 (romI_le data d hd)
  constructor
  · refine ⟨_, _, _, exec_decChar_completes_group hs hf hd hc0 hc1 h1 h0, ?_, ?_, rfl, rfl, rfl, rfl, rfl⟩
    · rw [highByte_toNat, hv]
    · rw [lowByte_toNat, hv]
  · exact ⟨_, _, exec_decEnd_dangles hs hf hc0 hc2 h0 hle, romA_eq_some hle, rfl, rfl, rfl, rfl, rfl⟩

/-- Settles O23: RESET leaves the block's registers at `afterReset`, which holds R34's values. -/
theorem resetStateValues : Obligations.ResetStateValues := by
  refine ⟨fun g s t h => ?_, fun g s t h => ?_, rfl, rfl, rfl, rfl, rfl, rfl, rfl⟩
  · obtain rfl := exec_encReset_next.mp h
    rfl
  · obtain rfl := exec_decReset_next.mp h
    rfl

/-- Settles O24: `afterReset` meets the invariant, a block that is not started meets it too, and a port that has carried no
event is legal. -/
theorem invariantHoldsAtReset : Obligations.InvariantHoldsAtReset :=
  ⟨⟨EncState.inv_afterReset, DecState.inv_afterReset⟩, State.outLegal_of_fresh rfl rfl, ⟨rfl, rfl⟩,
    ⟨EncState.inv_of_not_started rfl, DecState.inv_of_not_started rfl⟩, State.outLegal_of_fresh rfl rfl⟩

end Sys2Proof.Machine
end

section
/-! SUPPORT. The two blocks share nothing writable (R20, R68, R205): an operation reads and writes its own block alone. -/

namespace Sys2Proof.Machine

/-! ### Taking one block of a state over into another -/

/-- `r` with the registers and the output stream of block `p` taken from `s`. -/
def State.takeBlock (r : State) (p : Port) (s : State) : State :=
  match p with
  | .enc => { r with enc := s.enc, encOut := s.encOut }
  | .dec => { r with dec := s.dec, decOut := s.decOut }

section
variable {p q : Port} (r s t : State)

@[simp] theorem State.takeBlock_self : s.takeBlock p s = s := by cases p <;> rfl

@[simp] theorem State.takeBlock_pending : (r.takeBlock p s).pending = r.pending := by cases p <;> rfl

/-- Taken from a state whose own block `p` came from `t`, the block is that of `t`. -/
@[simp] theorem State.takeBlock_takeBlock_same : r.takeBlock p (s.takeBlock p t) = r.takeBlock p t := by cases p <;> rfl

theorem Port.enc_dec_of_ne (h : p ≠ q) : (p = .enc ∧ q = .dec) ∨ (p = .dec ∧ q = .enc) := by
  cases p <;> cases q <;> simp at h ⊢

theorem State.takeBlock_takeBlock_of_ne (h : p ≠ q) : r.takeBlock p (s.takeBlock q t) = r.takeBlock p s := by
  obtain ⟨rfl, rfl⟩ | ⟨rfl, rfl⟩ := Port.enc_dec_of_ne h <;> rfl

theorem State.takeBlock_comm (h : p ≠ q) : (r.takeBlock p s).takeBlock q t = (r.takeBlock q t).takeBlock p s := by
  obtain ⟨rfl, rfl⟩ | ⟨rfl, rfl⟩ := Port.enc_dec_of_ne h <;> rfl

end

/-! ### Changing the next state of a result -/

/-- A result with its next state, if it has one, changed by `f`. -/
def mapNext (f : State → State) : Result → Result
  | .next s => .next (f s)
  | .fault r => .fault r
  | .refused r => .refused r

section
variable {α : Type} (f : State → State)

@[simp] theorem mapNext_next (s : State) : mapNext f (.next s) = .next (f s) := rfl

theorem mapNext_whenStarted (p : Port) (s : State) (k : Result) :
    mapNext f (whenStarted p s k) = whenStarted p s (mapNext f k) := by
  unfold whenStarted
  split <;> rfl

theorem mapNext_readReg (g : Register) (v : Option α) (k : α → Result) :
    mapNext f (readReg g v k) = readReg g v fun a => mapNext f (k a) := by
  cases v <;> rfl

theorem mapNext_readRomA (a : Digit) (k : Byte → Result) :
    mapNext f (readRomA a k) = readRomA a fun c => mapNext f (k c) := by
  unfold readRomA
  split <;> rfl

end

/-! ### An operation is a function of its own block -/

section
variable {i j : Instr} {p : Port} {s t u : State} (r : State)

theorem acceptDigit_takeBlock (d : Digit) (s : State) :
    acceptDigit d (r.takeBlock .dec s) = mapNext (r.takeBlock .dec) (acceptDigit d s) := by
  simp only [acceptDigit, apply_ite (mapNext _), mapNext_readReg, mapNext_next]
  rfl

/-- In a state that has its block from `s`, an operation does to that block what it does in `s`, faults and is refused as
in `s`, and leaves everything else. -/
theorem exec_takeBlock (i : Instr) (s : State) :
    exec i (r.takeBlock i.port s) = mapNext (r.takeBlock i.port) (exec i s) := by
  cases i with
  | encReset g => rfl
  | encData data =>
    simp only [exec, execEncData, mapNext_whenStarted, apply_ite (mapNext _), mapNext_readReg, mapNext_next]
    rfl
  | encEnd g =>
    simp only [exec, execEncEnd, mapNext_whenStarted, apply_ite (mapNext _), mapNext_readReg, mapNext_next]
    rfl
  | decReset g => rfl
  | decChar data =>
    simp only [exec, execDecChar, mapNext_whenStarted, apply_ite (mapNext _), mapNext_next]
    cases romI data with
    | none => rfl
    | some d =>
      simp only [Instr.port, acceptDigit_takeBlock]
      rfl
  | decEnd g =>
    simp only [exec, execDecEnd, mapNext_whenStarted, apply_ite (mapNext _), mapNext_readReg, mapNext_readRomA, mapNext_next]
    rfl

theorem exec_takeBlock_next (h : exec i s = .next t) : exec i (r.takeBlock i.port s) = .next (r.takeBlock i.port t) := by
  rw [exec_takeBlock, h, mapNext_next]

/-- The frame of an operation, in one equation: the next state differs in the operation's own block only. -/
theorem eq_takeBlock_of_exec (h : exec i s = .next t) : t = s.takeBlock i.port t := by
  have hs := exec_takeBlock_next s h
  rw [State.takeBlock_self, h] at hs
  exact Host.Outcome.next.inj hs

theorem exec_pending (h : exec i s = .next t) : t.pending = s.pending := by
  rw [eq_takeBlock_of_exec h, State.takeBlock_pending]

/-- An operation of another block leaves block `p` as it is. -/
theorem takeBlock_of_exec_ne (hp : p ≠ i.port) (h : exec i s = .next t) : r.takeBlock p t = r.takeBlock p s := by
  rw [eq_takeBlock_of_exec h, State.takeBlock_takeBlock_of_ne _ _ _ hp]

/-- Operations of different blocks may be swapped. -/
theorem exec_comm_of_port_ne (hp : i.port ≠ j.port) (hi : exec i s = .next u) (hj : exec j u = .next t) :
    ∃ v, exec j s = .next v ∧ exec i v = .next t := by
  refine ⟨s.takeBlock j.port t, ?_, ?_⟩
  · have h := exec_takeBlock_next s hj
    rwa [takeBlock_of_exec_ne s hp.symm hi, State.takeBlock_self] at h
  · have h := exec_takeBlock_next (s.takeBlock j.port t) hi
    rwa [State.takeBlock_comm _ _ _ hp.symm, State.takeBlock_self, State.takeBlock_comm _ _ _ hp.symm,
      ← eq_takeBlock_of_exec hi, ← eq_takeBlock_of_exec hj] at h

end

/-! ### Lists of operations -/

section
variable {i j : Instr} {l : List Instr} {s t : State}

theorem execAll_cons_next : execAll (i :: l) s = .next t ↔ ∃ u, exec i s = .next u ∧ execAll l u = .next t := by
  rw [execAll]
  cases exec i s <;> simp

theorem execAll_pair_comm (hp : i.port ≠ j.port) (h : execAll [i, j] s = .next t) : execAll [j, i] s = .next t := by
  obtain ⟨u, hi, h⟩ := execAll_cons_next.mp h
  obtain ⟨t', hj, ht⟩ := execAll_cons_next.mp h
  obtain rfl := Host.Outcome.next.inj ht
  obtain ⟨v, hv, hvt⟩ := exec_comm_of_port_ne hp hi hj
  exact execAll_cons_next.mpr ⟨v, hv, execAll_cons_next.mpr ⟨t', hvt, rfl⟩⟩

/-- The operations of block `p` among those of a run do alone, from any state with the same block `p`, what the run does
to that block, and nothing else. -/
theorem execAll_filter_takeBlock (p : Port) (r : State) (h : execAll l s = .next t) :
    execAll (l.filter fun i => i.port = p) (r.takeBlock p s) = .next (r.takeBlock p t) := by
  induction l generalizing s with
  | nil =>
    cases h
    rfl
  | cons i l ih =>
    obtain ⟨u, hi, hl⟩ := execAll_cons_next.mp h
    by_cases hp : i.port = p
    · subst hp
      rw [List.filter_cons_of_pos (by simp)]
      exact execAll_cons_next.mpr ⟨_, exec_takeBlock_next r hi, ih hl⟩
    · rw [List.filter_cons_of_neg (by simpa using hp), ← takeBlock_of_exec_ne r (Ne.symm hp) hi]
      exact ih hl

theorem execAll_filter (p : Port) (h : execAll l s = .next t) :
    execAll (l.filter fun i => i.port = p) s = .next (s.takeBlock p t) := by
  simpa using execAll_filter_takeBlock p s h

/-- A run that its blocks' own operations complete is completed: after the first operation, the rest of its own block's
operations go on, and those of the other block still find their block as it was. -/
theorem execAll_next_of_filter (h : ∀ p, ∃ u, execAll (l.filter fun i => i.port = p) s = .next u) :
    ∃ t, execAll l s = .next t := by
  induction l generalizing s with
  | nil => exact ⟨s, rfl⟩
  | cons i l ih =>
    obtain ⟨v, hv⟩ := h i.port
    rw [List.filter_cons_of_pos (by simp)] at hv
    obtain ⟨w, hi, hl⟩ := execAll_cons_next.mp hv
    have hw : ∀ p, ∃ u, execAll (l.filter fun i => i.port = p) w = .next u := fun p => by
      by_cases hp : i.port = p
      · subst hp
        exact ⟨v, hl⟩
      · obtain ⟨u, hu⟩ := h p
        rw [List.filter_cons_of_neg (by simpa using hp)] at hu
        have hwu := execAll_filter_takeBlock p w hu
        rw [← takeBlock_of_exec_ne w (Ne.symm hp) hi, State.takeBlock_self, List.filter_filter] at hwu
        simp only [Bool.and_self] at hwu
        exact ⟨_, hwu⟩
    obtain ⟨t, ht⟩ := ih hw
    exact ⟨t, execAll_cons_next.mpr ⟨w, hi, ht⟩⟩

end

end Sys2Proof.Machine
end

section
/-! SUPPORT. What an operation other than its block's RESET appends to the output (R57, R66, R237). -/

namespace Sys2Proof.Machine

variable {i : Instr} {s t : State}

/-- A port that is left as it is has had nothing appended. -/
theorem OutPort.emit_of_eq {α : Type} {p q : OutPort α} (n : Nat) (h : q = p) : ∃ l, l.length ≤ n ∧ q = p.emit l :=
  ⟨[], Nat.zero_le n, by simp [h]⟩

theorem exec_encOut_emit (hi : ∀ g, i ≠ .encReset g) (h : exec i s = .next t) :
    ∃ l, l.length ≤ 3 ∧ t.encOut = s.encOut.emit l := by
  cases i with
  | encReset g => exact absurd rfl (hi g)
  | encData data =>
    obtain ⟨-, ⟨-, rfl⟩ | ⟨-, hi, -, rfl⟩⟩ := exec_encData_next.mp h
    · exact OutPort.emit_of_eq 3 rfl
    · exact ⟨_, by simp [pairChars], rfl⟩
  | encEnd g =>
    obtain ⟨-, ⟨-, rfl⟩ | ⟨-, hi, -, rfl⟩⟩ := exec_encEnd_next.mp h
    · exact ⟨[.done], by simp, rfl⟩
    · exact ⟨_, by simp [tailChars], rfl⟩
  | decReset g | decChar data | decEnd g => exact OutPort.emit_of_eq 3 (exec_dec_frame rfl h).2

theorem acceptDigit_decOut_emit {d : Digit} (h : acceptDigit d s = .next t) :
    ∃ l, l.length ≤ 2 ∧ t.decOut = s.decOut.emit l := by
  obtain ⟨-, rfl⟩ | ⟨-, rfl⟩ | ⟨-, -, d1, d0, -, -, rfl⟩ := acceptDigit_next.mp h
  · exact OutPort.emit_of_eq 2 rfl
  · exact OutPort.emit_of_eq 2 rfl
  · exact ⟨_, by simp [groupBytes], rfl⟩

theorem exec_decOut_emit (hi : ∀ g, i ≠ .decReset g) (h : exec i s = .next t) :
    ∃ l, l.length ≤ 2 ∧ t.decOut = s.decOut.emit l := by
  cases i with
  | encReset g | encData data | encEnd g => exact OutPort.emit_of_eq 2 (exec_enc_frame rfl h).2
  | decReset g => exact absurd rfl (hi g)
  | decChar data =>
    obtain ⟨-, ⟨-, rfl⟩ | ⟨-, -, rfl⟩ | ⟨-, d, -, ha⟩⟩ := exec_decChar_next.mp h
    · exact OutPort.emit_of_eq 2 rfl
    · exact ⟨[.error .invalidCharacter data s.dec.pos], by simp, rfl⟩
    · exact acceptDigit_decOut_emit ha
  | decEnd g =>
    obtain ⟨-, ⟨-, rfl⟩ | ⟨-, -, rfl⟩ | ⟨-, -, d1, d0, -, -, rfl⟩ | ⟨-, -, -, d0, c, -, -, rfl⟩⟩ :=
      exec_decEnd_next.mp h
    · exact OutPort.emit_of_eq 2 rfl
    · exact ⟨[.done], by simp, rfl⟩
    · exact ⟨[.byte (tailByte (decTailValue d1 d0)), .done], by simp, rfl⟩
    · exact ⟨[.error .danglingCharacter c (s.dec.pos - 1)], by simp, rfl⟩

end Sys2Proof.Machine
end

section
/-! SUPPORT. A run of the presented events is a run of their operations (R65, R66, R82). -/

namespace Sys2Proof.Machine

section
variable (k : BitVec 2) (d : Byte) (g : BitVec 9)

@[simp] theorem wordRst_append_data : wordRst (k ++ d) = k.getLsbD 1 := by
  rw [wordRst, BitVec.getLsbD_append]
  rfl

@[simp] theorem wordKind_append_data : wordKind (k ++ d) = k.getLsbD 0 := by
  rw [wordKind, BitVec.getLsbD_append]
  rfl

@[simp] theorem wordData_append_data : wordData (k ++ d) = d := BitVec.extractLsb'_append_eq_right

@[simp] theorem wordRst_append_ignored : wordRst (1#1 ++ g) = true := by
  rw [wordRst, BitVec.getLsbD_append]
  rfl

@[simp] theorem wordBelowRst_append_ignored : wordBelowRst (1#1 ++ g) = g := BitVec.extractLsb'_append_eq_right

end

/-- Decoding the encoding of an instruction gives it back, with the bits that R87 calls ignored. -/
theorem decodeWord_encode (i : Instr) : decodeWord (encode i).port (encode i).word = i := by
  cases i with
  | encReset g => simp [encode, decodeWord]
  | encData d => simp [encode, decodeWord]
  | encEnd g => simp [encode, decodeWord]
  | decReset g => simp [encode, decodeWord]
  | decChar d => simp [encode, decodeWord]
  | decEnd g => simp [encode, decodeWord]

/-- An operation does not read what is presented. -/
theorem exec_setPending (i : Instr) (s : State) (l : List PortWord) :
    exec i { s with pending := l } = mapNext (fun t => { t with pending := l }) (exec i s) := by
  have h := exec_takeBlock { s with pending := l } i s
  have hs : State.takeBlock { s with pending := l } i.port s = { s with pending := l } := by cases i <;> rfl
  rw [hs] at h
  cases ht : exec i s with
  | next t =>
    rw [h, ht, eq_takeBlock_of_exec ht]
    cases i <;> rfl
  | fault r | refused r => rw [h, ht]; rfl

theorem run_eq_execAll {l : List Instr} {rest : List PortWord} {s : State} (h : s.pending = l.map encode ++ rest) :
    run l.length s = execAll l { s with pending := rest } := by
  induction l generalizing s with
  | nil => subst h; rfl
  | cons i l ih =>
    have hstep : step s = mapNext (fun t => { t with pending := l.map encode ++ rest }) (exec i { s with pending := rest }) := by
      rw [step_of_pending_cons h, decodeWord_encode, ← exec_setPending]
      rfl
    rw [List.length_cons, run, hstep, execAll]
    cases ht : exec i { s with pending := rest } with
    | next t =>
      have hp : rest = t.pending := (exec_pending ht).symm
      subst hp
      exact ih rfl
    | fault r => rfl
    | refused r => rfl

end Sys2Proof.Machine
end

section
/-! SUPPORT. ROM_I against ROM_A, entry by entry (R54). -/

namespace Sys2Proof.Machine

theorem alphabet_nodup : alphabet.Nodup := by decide

/-- The character at the digit of `c` is `c`. Stated by `Option.all`, so that only the 256 codes are run through. -/
theorem romI_all_romA (c : Byte) : (romI c).all (fun d => romA d = some c) = true := by
  revert c
  decide

/-- The digit of the character at `d` is `d`. -/
theorem romA_all_romI (d : Digit) : (romA d).all (fun c => romI c = some d) = true := by
  revert d
  decide

theorem romI_eq_some_iff {c : Byte} {d : Digit} : romI c = some d ↔ romA d = some c :=
  ⟨fun h => of_decide_eq_true ((Option.all_eq_true _ _).mp (romI_all_romA c) d h),
    fun h => of_decide_eq_true ((Option.all_eq_true _ _).mp (romA_all_romI d) c h)⟩

theorem length_romITable : romITable.length = 256 := by
  simp only [romITable, List.length_append, List.length_replicate]
  rfl

/-- ROM_I read at the codes 0 to 255 is its table. -/
theorem map_romI_range : ((List.range 256).map fun n => romI (BitVec.ofNat 8 n)) = romITable := by
  refine List.ext_getElem (by simp [length_romITable]) fun n hn hn' => ?_
  rw [length_romITable] at hn'
  simp [romI, Nat.mod_eq_of_lt hn', length_romITable, hn']

theorem length_filter_romI (p : Option Digit → Bool) :
    ((List.range 256).filter fun n => p (romI (BitVec.ofNat 8 n))).length = romITable.countP p := by
  rw [← map_romI_range, List.countP_map, List.countP_eq_length_filter]
  rfl

theorem countP_isSome_romITable : romITable.countP Option.isSome = 45 := by
  simp only [romITable, List.countP_append, List.countP_replicate]
  decide

theorem countP_isNone_romITable : romITable.countP Option.isNone = 211 := by
  simp only [romITable, List.countP_append, List.countP_replicate]
  decide

end Sys2Proof.Machine
end

section
/-! The obligations of 20_memory.md. -/

namespace Sys2Proof.Machine

/-- Settles O36: an operation is a function of its own block, by induction over the list. -/
theorem interleavingIsUnobservable : Obligations.InterleavingIsUnobservable := by
  intro l s
  refine ⟨fun t h => ⟨⟨_, execAll_filter .enc h, rfl, rfl, rfl, rfl⟩, ⟨_, execAll_filter .dec h, rfl, rfl, rfl, rfl⟩⟩, ?_⟩
  intro u v hu hv
  refine execAll_next_of_filter fun p => ?_
  cases p with
  | enc => exact ⟨u, hu⟩
  | dec => exact ⟨v, hv⟩

/-- Settles O30, by what each operation emits. -/
theorem eventsOnlyAppendOutput : Obligations.EventsOnlyAppendOutput :=
  fun _ _ _ h => ⟨fun hi => exec_encOut_emit hi h, fun hi => exec_decOut_emit hi h⟩

/-- Settles O34, by the frames of the operations. -/
theorem blocksLeaveEachOtherAlone : Obligations.BlocksLeaveEachOtherAlone :=
  fun _ _ _ h => ⟨exec_pending h, fun hp => exec_enc_frame hp h, fun hp => exec_dec_frame hp h⟩

/-- Settles O35: either order gives the other, since neither operation reads or writes the other's block. -/
theorem crossPortEventsCommute : Obligations.CrossPortEventsCommute := by
  intro i j s t hi hj
  have hp : i.port ≠ j.port := by simp [hi, hj]
  exact ⟨execAll_pair_comm hp, execAll_pair_comm hp.symm⟩

/-- Settles O38: the two runs are equal, by induction over the list. -/
theorem runFollowsPresentedEvents : Obligations.RunFollowsPresentedEvents := by
  intro l rest s h
  rw [run_eq_execAll h]
  exact ⟨fun _ => Iff.rfl, fun _ => Iff.rfl, fun _ => Iff.rfl⟩

/-- Settles O1, by the equation of a step with an event presented. -/
theorem stepRunsDecodedEvent : Obligations.StepRunsDecodedEvent :=
  fun _ _ _ h => step_of_pending_cons h

/-- Settles O8: the written string, read character by character, is the list of codes. -/
theorem alphabetIsTheWrittenString : Obligations.AlphabetIsTheWrittenString :=
  ⟨by decide, alphabet_length, alphabet_nodup⟩

/-- Settles O9: each table is looked up in the other, entry by entry, and the entries of ROM_I are counted. -/
theorem romTablesAreInverse : Obligations.RomTablesAreInverse :=
  ⟨alphabet_length, alphabet_nodup, fun _ _ => romI_eq_some_iff,
    (length_filter_romI _).trans countP_isSome_romITable, (length_filter_romI _).trans countP_isNone_romITable⟩

end Sys2Proof.Machine
end

section
/-! SUPPORT. Words as leading, selecting bits and the bits below them, in one notion for the masks of the operation map, the
decoder and the encoder (R82, R84). -/

namespace Sys2Proof.Machine

section
variable {n m : Nat} {a b : BitVec n} {x y : BitVec m}

theorem append_eq_append_iff : a ++ x = b ++ y ↔ a = b ∧ x = y := by
  refine ⟨fun h => ⟨?_, ?_⟩, fun ⟨ha, hx⟩ => by rw [ha, hx]⟩
  · simpa [BitVec.extractLsb'_append_eq_left] using congrArg (BitVec.extractLsb' m n) h
  · simpa [BitVec.extractLsb'_append_eq_right] using congrArg (BitVec.extractLsb' 0 m) h

theorem exists_eq_append (w : BitVec (n + m)) : ∃ (a : BitVec n) (x : BitVec m), w = a ++ x :=
  ⟨_, _, BitVec.extractLsb'_append_extractLsb'.symm⟩

/-- A mask of a row of the operation map is ones on the leading bits, so match and mask fix these and nothing else. -/
theorem and_prefixMask_eq_iff {w mask v : BitVec (n + m)} (hmask : mask = BitVec.allOnes n ++ 0#m) (hv : v = a ++ 0#m) :
    w &&& mask = v ↔ ∃ x : BitVec m, w = a ++ x := by
  obtain ⟨b, y, rfl⟩ := exists_eq_append w
  simp [hmask, hv, BitVec.and_append, append_eq_append_iff]

/-- A single bit before the leading bits joins them. On numbers, since the widths associate differently. -/
theorem bit_append_append_toNat {u : BitVec 1} {c : BitVec (1 + n)} (hc : u ++ a = c) (x : BitVec m) :
    (u ++ (a ++ x)).toNat = (c ++ x).toNat := by
  rw [← hc, BitVec.append_assoc, BitVec.toNat_cast]

end

/-! ### The three shapes of an event word (R82) -/

section
variable {w : EventWord}

theorem resetMask_iff : w &&& 0x200#10 = 0x200#10 ↔ ∃ g : BitVec 9, w = 1#1 ++ g :=
  and_prefixMask_eq_iff (n := 1) (m := 9) (a := 1#1) rfl rfl

theorem dataMask_iff : w &&& 0x300#10 = 0x000#10 ↔ ∃ d : Byte, w = 0b00#2 ++ d :=
  and_prefixMask_eq_iff (n := 2) (m := 8) (a := 0b00#2) rfl rfl

theorem endMask_iff : w &&& 0x300#10 = 0x100#10 ↔ ∃ g : Byte, w = 0b01#2 ++ g :=
  and_prefixMask_eq_iff (n := 2) (m := 8) (a := 0b01#2) rfl rfl

/-- Every event word is a RESET, a DATA or an END word. -/
theorem eventWord_cases (w : EventWord) :
    (∃ g : BitVec 9, w = 1#1 ++ g) ∨ (∃ d : Byte, w = 0b00#2 ++ d) ∨ ∃ g : Byte, w = 0b01#2 ++ g := by
  obtain ⟨rst, g, hw⟩ := exists_eq_append (n := 1) (m := 9) w
  obtain ⟨kind, d, rfl⟩ := exists_eq_append (n := 1) (m := 8) g
  obtain rfl | rfl := rst.eq_zero_or_eq_one
  · obtain rfl | rfl := kind.eq_zero_or_eq_one
    · exact .inr (.inl ⟨d, hw.trans (BitVec.eq_of_toNat_eq (bit_append_append_toNat rfl d))⟩)
    · exact .inr (.inr ⟨d, hw.trans (BitVec.eq_of_toNat_eq (bit_append_append_toNat rfl d))⟩)
  · exact .inl ⟨_, hw⟩

end

/-! ### The decoder inverts the encoder, on port words and on table words -/

section
variable {i : Instr} {p : Port} {w : EventWord}

theorem exists_encode_eq (p : Port) (w : EventWord) : ∃ i, encode i = ⟨p, w⟩ := by
  obtain ⟨g, rfl⟩ | ⟨d, rfl⟩ | ⟨g, rfl⟩ := eventWord_cases w
  · cases p
    · exact ⟨.encReset g, rfl⟩
    · exact ⟨.decReset g, rfl⟩
  · cases p
    · exact ⟨.encData d, rfl⟩
    · exact ⟨.decChar d, rfl⟩
  · cases p
    · exact ⟨.encEnd g, rfl⟩
    · exact ⟨.decEnd g, rfl⟩

/-- Encoding what a word decodes to gives the word back: the word is the encoding of some instruction, and that is the one it
decodes to. -/
theorem encode_decodeWord (p : Port) (w : EventWord) : encode (decodeWord p w) = ⟨p, w⟩ := by
  obtain ⟨i, hi⟩ := exists_encode_eq p w
  have h := decodeWord_encode i
  rw [hi] at h
  rw [h, hi]

theorem decodeWord_eq_iff : decodeWord p w = i ↔ ⟨p, w⟩ = encode i := by
  constructor
  · rintro rfl
    exact (encode_decodeWord p w).symm
  · intro h
    rw [← decodeWord_encode i, ← h]

theorem portWordOf_tableWordOf (e : PortWord) : portWordOf (tableWordOf e) = e := by
  obtain ⟨p, w⟩ := e
  simp only [portWordOf, tableWordOf, BitVec.getLsbD_append, BitVec.extractLsb'_append_eq_right]
  cases p <;> rfl

theorem tableWordOf_portWordOf (t : BitVec 11) : tableWordOf (portWordOf t) = t := by
  obtain ⟨u, w, ht⟩ := exists_eq_append (n := 1) (m := 10) t
  have he : ∃ e, t = tableWordOf e := by
    obtain rfl | rfl := u.eq_zero_or_eq_one
    · exact ⟨⟨.enc, w⟩, ht⟩
    · exact ⟨⟨.dec, w⟩, ht⟩
  obtain ⟨e, rfl⟩ := he
  rw [portWordOf_tableWordOf]

theorem portWordOf_eq_iff {t : BitVec 11} {e : PortWord} : portWordOf t = e ↔ t = tableWordOf e := by
  constructor
  · rintro rfl
    exact (tableWordOf_portWordOf t).symm
  · rintro rfl
    exact portWordOf_tableWordOf e

/-- The numbers of 11 bits that fit the caller's bits are the table words (R84; log entry 9). -/
theorem tableWord_of_lt {nbits v : Nat} (hv : v < 2048) (hb : v < 2 ^ nbits) :
    tableWord nbits v = .ok (portWordOf (BitVec.ofNat 11 v)) := by
  simp [tableWord, hv, hb]

theorem tableWord_of_le {nbits v : Nat} (hv : 2048 ≤ v) : tableWord nbits v = .error .notATableWord := by
  simp [tableWord, Nat.not_lt.mpr hv]

theorem decodeTableWord_of_lt {nbits v : Nat} (hv : v < 2048) (hb : v < 2 ^ nbits) :
    decodeTableWord nbits v =
      some (decodeWord (portWordOf (BitVec.ofNat 11 v)).port (portWordOf (BitVec.ofNat 11 v)).word) := by
  rw [decodeTableWord, tableWord_of_lt hv hb]

theorem decodeTableWord_eq_some_iff {v : Nat} (hv : v < 2048) :
    decodeTableWord 11 v = some i ↔ BitVec.ofNat 11 v = tableWordOf (encode i) := by
  rw [decodeTableWord_of_lt hv hv, Option.some.injEq, decodeWord_eq_iff, portWordOf_eq_iff]

end

/-- A row of the operation map over the table words: its match and mask fix the leading bits `a`, and the table words of
its operation are those that lead with `a`. -/
theorem tableMask_iff {n m : Nat} {a : BitVec n} {f : BitVec m → Instr} {mask v w : Nat} (hnm : n + m = 11) (hw : w < 2048)
    (hmask : mask = (BitVec.allOnes n ++ 0#m).toNat) (hv : v = (a ++ 0#m).toNat)
    (hf : ∀ x, (tableWordOf (encode (f x))).toNat = (a ++ x).toNat) :
    w &&& mask = v ↔ ∃ x, decodeTableWord 11 w = some (f x) := by
  have hlt : w < 2 ^ (n + m) := by rwa [hnm]
  have hand : w &&& mask = v ↔ BitVec.ofNat (n + m) w &&& (BitVec.allOnes n ++ 0#m) = a ++ 0#m := by
    rw [← BitVec.toNat_inj, BitVec.toNat_and, BitVec.toNat_ofNat, Nat.mod_eq_of_lt hlt, hmask, hv]
  rw [hand, and_prefixMask_eq_iff rfl rfl]
  refine exists_congr fun x => ?_
  rw [decodeTableWord_eq_some_iff hw, ← BitVec.toNat_inj, ← BitVec.toNat_inj, hf, BitVec.toNat_ofNat, BitVec.toNat_ofNat,
    Nat.mod_eq_of_lt hlt, Nat.mod_eq_of_lt hw]

end Sys2Proof.Machine
end

section
/-! SUPPORT. RESET and END words: the bits they ignore, and that no word traps (R87). -/

namespace Sys2Proof.Machine

section
variable (p : Port) (g g' : BitVec 9) (e e' : BitVec 8) (s : State)

@[simp] theorem decodeWord_enc_reset : decodeWord .enc (1#1 ++ g) = .encReset g := decodeWord_encode (.encReset g)
@[simp] theorem decodeWord_dec_reset : decodeWord .dec (1#1 ++ g) = .decReset g := decodeWord_encode (.decReset g)
@[simp] theorem decodeWord_enc_end : decodeWord .enc (0b01#2 ++ e) = .encEnd e := decodeWord_encode (.encEnd e)
@[simp] theorem decodeWord_dec_end : decodeWord .dec (0b01#2 ++ e) = .decEnd e := decodeWord_encode (.decEnd e)

theorem exec_reset_ignores : exec (decodeWord p (1#1 ++ g)) s = exec (decodeWord p (1#1 ++ g')) s := by
  cases p
  · rw [decodeWord_enc_reset, decodeWord_enc_reset]; rfl
  · rw [decodeWord_dec_reset, decodeWord_dec_reset]; rfl

theorem exec_end_ignores : exec (decodeWord p (0b01#2 ++ e)) s = exec (decodeWord p (0b01#2 ++ e')) s := by
  cases p
  · rw [decodeWord_enc_end, decodeWord_enc_end]; rfl
  · rw [decodeWord_dec_end, decodeWord_dec_end]; rfl

theorem wellFormed_reset_iff : (decodeWord p (1#1 ++ g)).wellFormed = true ↔ 1#1 ++ g = 1#1 ++ 0#9 := by
  rw [append_eq_append_iff]
  cases p <;> simp [Instr.wellFormed]

theorem wellFormed_end_iff : (decodeWord p (0b01#2 ++ e)).wellFormed = true ↔ 0b01#2 ++ e = 0b01#2 ++ 0#8 := by
  rw [append_eq_append_iff]
  cases p <;> simp [Instr.wellFormed]

end

theorem State.Started.startedAt {s : State} (hs : s.Started) (p : Port) : s.startedAt p = true := by
  cases p
  · exact hs.1
  · exact hs.2

/-- Under the invariant no operation faults, and a started block refuses none, so each answers a next state. -/
theorem exec_next_of_inv {s : State} (h : s.Inv) (hs : s.Started) (i : Instr) : ∃ t, exec i s = .next t := by
  cases he : exec i s with
  | next t => exact ⟨t, rfl⟩
  | fault f => exact absurd he (exec_ne_fault_of_inv h i f)
  | refused q => exact absurd (exec_refused he).2 (by simp [State.Started.startedAt hs])

end Sys2Proof.Machine
end

section
/-! SUPPORT. The legality of the output: what it says of emitting and of RESET, and that every operation keeps it (R89, R130,
R190). -/

namespace Sys2Proof.Machine

/-! ### Output streams -/

section
variable {α : Type} {P : α → Prop} {o : OutPort α} {l : List α}

theorem OutPort.forall_emit (ho : ∀ e ∈ o.stream, P e) (hl : ∀ e ∈ l, P e) : ∀ e ∈ (o.emit l).stream, P e := by
  rw [OutPort.emit_stream]
  exact List.forall_mem_append.mpr ⟨ho, hl⟩

/-- What is left of a stream by a RESET is a part of it. -/
theorem OutPort.flush_stream_subset (k : Nat) : (o.flush k).stream ⊆ o.stream := by
  rw [OutPort.stream, OutPort.flush_delivered, OutPort.flush_inFlight, List.append_nil]
  exact List.append_subset.mpr ⟨List.subset_append_left _ _, List.subset_append_of_subset_right _ (List.take_subset k _)⟩

theorem OutPort.forall_flush (k : Nat) (ho : ∀ e ∈ o.stream, P e) : ∀ e ∈ (o.flush k).stream, P e :=
  fun e he => ho e (OutPort.flush_stream_subset k he)

end

/-! ### The events that the operations emit -/

theorem romAMod_mem_alphabet (x : Nat) : romAMod x ∈ alphabet := List.mem_of_getElem? (romAMod_eq x)

theorem pairChars_legal (v : BitVec 16) : ∀ e ∈ (pairChars v).map EncOut.char, e.legal = true := by
  simp [pairChars, EncOut.legal, romAMod_mem_alphabet]

theorem tailChars_legal (v : BitVec 16) : ∀ e ∈ (tailChars v).map EncOut.char ++ [.done], e.legal = true := by
  simp [tailChars, EncOut.legal, romAMod_mem_alphabet]

theorem bytes_legal (l : List Byte) : ∀ e ∈ l.map DecOut.byte, e.legal = true := by
  simp [DecOut.legal]

theorem invalidCharacter_legal {c : Byte} (h : romI c = none) (p : Nat) :
    ∀ e ∈ [DecOut.error .invalidCharacter c p], e.legal = true := by
  simp [DecOut.legal, h]

/-- The character that DEC.END reads back from a digit is one of the alphabet, since ROM_I inverts ROM_A (R54). -/
theorem danglingCharacter_legal {d : Digit} {c : Byte} (h : romA d = some c) (p : Nat) :
    ∀ e ∈ [DecOut.error .danglingCharacter c p], e.legal = true := by
  simp [DecOut.legal, romI_eq_some_iff.mpr h]

/-! ### The operations -/

section
variable {i : Instr} {s t : State}

theorem exec_keeps_encOut_legal (h : ∀ e ∈ s.encOut.stream, e.legal = true) (ht : exec i s = .next t) :
    ∀ e ∈ t.encOut.stream, e.legal = true := by
  cases i with
  | encReset g =>
    obtain rfl := exec_encReset_next.mp ht
    exact OutPort.forall_flush _ h
  | encData data =>
    obtain ⟨-, ⟨-, rfl⟩ | ⟨-, hi, -, rfl⟩⟩ := exec_encData_next.mp ht
    · exact h
    · exact OutPort.forall_emit h (pairChars_legal _)
  | encEnd g =>
    obtain ⟨-, ⟨-, rfl⟩ | ⟨-, hi, -, rfl⟩⟩ := exec_encEnd_next.mp ht
    · exact OutPort.forall_emit h (by simp [EncOut.legal])
    · exact OutPort.forall_emit h (tailChars_legal _)
  | decReset g | decChar data | decEnd g => rwa [(exec_dec_frame rfl ht).2]

theorem acceptDigit_keeps_decOut_legal {d : Digit} (h : ∀ e ∈ s.decOut.stream, e.legal = true)
    (ht : acceptDigit d s = .next t) : ∀ e ∈ t.decOut.stream, e.legal = true := by
  obtain ⟨-, rfl⟩ | ⟨-, rfl⟩ | ⟨-, -, d1, d0, -, -, rfl⟩ := acceptDigit_next.mp ht
  · exact h
  · exact h
  · exact OutPort.forall_emit h (bytes_legal _)

theorem exec_keeps_decOut_legal (h : ∀ e ∈ s.decOut.stream, e.legal = true) (ht : exec i s = .next t) :
    ∀ e ∈ t.decOut.stream, e.legal = true := by
  cases i with
  | encReset g | encData data | encEnd g => rwa [(exec_enc_frame rfl ht).2]
  | decReset g =>
    obtain rfl := exec_decReset_next.mp ht
    exact OutPort.forall_flush _ h
  | decChar data =>
    obtain ⟨-, ⟨-, rfl⟩ | ⟨-, hrom, rfl⟩ | ⟨-, d, -, ha⟩⟩ := exec_decChar_next.mp ht
    · exact h
    · exact OutPort.forall_emit h (invalidCharacter_legal hrom _)
    · exact acceptDigit_keeps_decOut_legal h ha
  | decEnd g =>
    obtain ⟨-, ⟨-, rfl⟩ | ⟨-, -, rfl⟩ | ⟨-, -, d1, d0, -, -, rfl⟩ | ⟨-, -, -, d0, c, -, hrom, rfl⟩⟩ :=
      exec_decEnd_next.mp ht
    · exact h
    · exact OutPort.forall_emit h (by simp [DecOut.legal])
    · exact OutPort.forall_emit h (by simp [DecOut.legal])
    · exact OutPort.forall_emit h (danglingCharacter_legal hrom _)

/-- Every operation keeps the output legal (R89, R190). -/
theorem exec_keeps_outLegal (h : s.OutLegal) (ht : exec i s = .next t) : t.OutLegal :=
  ⟨exec_keeps_encOut_legal h.enc ht, exec_keeps_decOut_legal h.dec ht⟩

/-- The legality of the output does not speak of the presented events. -/
theorem State.OutLegal.setPending (h : s.OutLegal) (l : List PortWord) : State.OutLegal { s with pending := l } :=
  ⟨h.enc, h.dec⟩

end

end Sys2Proof.Machine
end

section
/-! SUPPORT. The decoder's values and bytes as arithmetic, in the machine and in the whole-message functions (R86, R90, R114). -/

namespace Sys2Proof.Machine

/-- The 11-bit working value loses nothing on digits below 45. -/
theorem decTailValue_toNat {d1 d0 : Digit} (h1 : d1.toNat ≤ 44) : (decTailValue d1 d0).toNat = d1.toNat * 45 + d0.toNat := by
  rw [decTailValue, BitVec.toNat_ofNat, Nat.mod_eq_of_lt]
  omega

theorem tailByte_toNat (v : BitVec 11) : (tailByte v).toNat = v.toNat % 256 := by
  simp [tailByte]

theorem horner_pair (a z : Nat) : horner [a, z] = a + 45 * z := by
  simp only [horner, radix]
  omega

theorem horner_triple (a m z : Nat) : horner [a, m, z] = a + 45 * m + 2025 * z := by
  simp only [horner, radix]
  omega

theorem byte_and_toNat (v : Nat) : (BitVec.ofNat 8 (v &&& 0xFF)).toNat = v % 256 := by
  rw [BitVec.toNat_ofNat, Nat.and_two_pow_sub_one_eq_mod v 8, Nat.mod_mod]

section
variable {x y z : Byte} {a m e : Digit}

/-- Three valid characters decode to the bytes of their group. -/
theorem decodeMsg_triple (hx : romI x = some a) (hy : romI y = some m) (hz : romI z = some e) :
    decodeMsg [x, y, z] = .ok (decGroup a.toNat m.toNat e.toNat) := by
  simp [decodeMsg, decodeWalk, hx, hy, hz, groupAt, finishAt]

/-- Two valid characters decode to the byte of their tail. -/
theorem decodeMsg_pair (hx : romI x = some a) (hy : romI y = some m) :
    decodeMsg [x, y] = .ok (decTail a.toNat m.toNat) := by
  simp [decodeMsg, decodeWalk, hx, hy, groupAt, finishAt]

end

/-- The two bytes of a group are its value modulo 65536, high byte first. -/
theorem decGroup_eq (a m z : Nat) : ∃ b1 b0, decGroup a m z = [b1, b0] ∧
    b1.toNat * 256 + b0.toNat = (a + 45 * m + 2025 * z) % 65536 := by
  refine ⟨_, _, rfl, ?_⟩
  rw [byte_and_toNat, byte_and_toNat, Nat.shiftRight_eq_div_pow, horner_triple]
  omega

theorem decTail_eq (a z : Nat) : ∃ b, decTail a z = [b] ∧ b.toNat = (a + 45 * z) % 256 :=
  ⟨_, rfl, by rw [byte_and_toNat, horner_pair]⟩

end Sys2Proof.Machine
end

section
/-! SUPPORT. Output words: their fields, and the reading that gives the event back (R83, R89, R190). -/

namespace Sys2Proof.Machine

/-! ### ENC's words -/

section
variable (c : Byte)

theorem encOutWord_char_kind : (encOutWord (.char c)).getLsbD 8 = false := by
  rw [encOutWord, BitVec.getLsbD_append]
  rfl

theorem encOutWord_char_data : (encOutWord (.char c)).extractLsb' 0 8 = c := BitVec.extractLsb'_append_eq_right

end

/-- The event that a word of ENC stands for, read from R83's format. -/
def encOutEvent (w : BitVec 9) : EncOut := if w.getLsbD 8 then .done else .char (w.extractLsb' 0 8)

theorem encOutEvent_encOutWord (e : EncOut) : encOutEvent (encOutWord e) = e := by
  cases e with
  | char c => rw [encOutEvent, encOutWord_char_kind, encOutWord_char_data, if_neg Bool.false_ne_true]
  | done => rfl

/-! ### DEC's words -/

section
variable {posW : Nat}

/-- `kind`, `O[9:8]` (R83). -/
def DecOutWord.kind (w : DecOutWord posW) : BitVec 2 := w.word.extractLsb' 8 2

/-- `data`, `O[7:0]` (R83). -/
def DecOutWord.data (w : DecOutWord posW) : Byte := w.word.extractLsb' 0 8

section
variable (k : BitVec 2) (b : Byte) (code : BitVec 2) (pos : BitVec posW)

@[simp] theorem DecOutWord.kind_mk : (DecOutWord.mk (k ++ b) code pos).kind = k := BitVec.extractLsb'_append_eq_left
@[simp] theorem DecOutWord.data_mk : (DecOutWord.mk (k ++ b) code pos).data = b := BitVec.extractLsb'_append_eq_right

end

theorem decOutWord_error_eq_some {k : ErrCode} {c : Byte} {p : Nat} {w : DecOutWord posW} :
    decOutWord posW (.error k c p) = some w ↔ p < 2 ^ posW ∧ w = ⟨0b10#2 ++ c, k.code, BitVec.ofNat posW p⟩ := by
  rw [decOutWord]
  split <;> simp_all [eq_comm]

theorem ErrCode.code_eq (k : ErrCode) : k.code = if k = .invalidCharacter then 1 else 2 := by
  cases k <;> rfl

/-- The error that an `err_code` stands for (R190). -/
def errOfCode (code : BitVec 2) : ErrCode := if code = 1 then .invalidCharacter else .danglingCharacter

theorem errOfCode_code (k : ErrCode) : errOfCode k.code = k := by
  cases k <;> rfl

/-- The event that a word of DEC stands for, read from R83's format. -/
def DecOutWord.event (w : DecOutWord posW) : DecOut :=
  if w.kind = 0b00#2 then .byte w.data
  else if w.kind = 0b01#2 then .done
  else .error (errOfCode w.errCode) w.data w.errPos.toNat

theorem event_of_decOutWord {e : DecOut} {w : DecOutWord posW} (h : decOutWord posW e = some w) : w.event = e := by
  cases e with
  | byte b =>
    obtain rfl := Option.some.inj h
    simp [DecOutWord.event]
  | done =>
    obtain rfl := Option.some.inj h
    rw [DecOutWord.event, DecOutWord.kind_mk, if_neg (by decide), if_pos rfl]
  | error k c p =>
    obtain ⟨hp, rfl⟩ := decOutWord_error_eq_some.mp h
    simp [DecOutWord.event, errOfCode_code, Nat.mod_eq_of_lt hp]

/-- Kind and error code of every word: ERROR alone has an error code, and kind and code 3 are not used. -/
theorem kind_of_decOutWord {e : DecOut} {w : DecOutWord posW} (h : decOutWord posW e = some w) :
    w.kind ≠ 0b11#2 ∧ w.errCode ≠ 3 ∧ (w.errCode = 0 ↔ w.kind ≠ 0b10#2) := by
  cases e with
  | byte b =>
    obtain rfl := Option.some.inj h
    simp
  | done =>
    obtain rfl := Option.some.inj h
    simp only [DecOutWord.kind_mk]
    decide
  | error k c p =>
    obtain ⟨-, rfl⟩ := decOutWord_error_eq_some.mp h
    cases k <;> simp [ErrCode.code]

end

end Sys2Proof.Machine
end

section
/-! The obligations of 30_encoding.md. -/

namespace Sys2Proof.Machine

/-- Settles O4: the encoder is inverted by the decoder, and every port word is the encoding of some instruction. -/
theorem decodeEncodeRoundTrip : Obligations.DecodeEncodeRoundTrip := ⟨decodeWord_encode, encode_decodeWord⟩

/-- Settles O7: a RESET or END word decodes to the operation whatever bits stand below its leading ones, and no operation reads
them; the last clause holds of every operation. -/
theorem ignoredBitsHaveNoEffect : Obligations.IgnoredBitsHaveNoEffect := by
  intro s p w w'
  simp only [resetMask_iff, endMask_iff]
  refine ⟨?_, ?_, ?_, ?_, fun h hs => exec_next_of_inv h hs _⟩
  · rintro ⟨g, rfl⟩ ⟨g', rfl⟩
    exact exec_reset_ignores p g g' s
  · rintro ⟨e, rfl⟩ ⟨e', rfl⟩
    exact exec_end_ignores p e e' s
  · rintro ⟨g, rfl⟩
    exact wellFormed_reset_iff p g
  · rintro ⟨e, rfl⟩
    exact wellFormed_end_iff p e

/-- Settles O29: a step is idle or runs one operation, and every operation keeps the output legal. -/
theorem stepKeepsOutputLegal : Obligations.StepKeepsOutputLegal := by
  intro s t h ht
  cases hp : s.pending with
  | nil =>
    rw [step_of_pending_nil hp] at ht
    cases ht
    exact h
  | cons e rest =>
    rw [step_of_pending_cons hp] at ht
    exact exec_keeps_outLegal (h.setPending rest) ht

/-- Settles O44: the ranges are linear in the digits, and the bytes are those of `decGroup` and `decTail`. -/
theorem outOfRangeGroupsDecode : Obligations.OutOfRangeGroupsDecode := by
  refine ⟨fun d0 d1 d2 h0 h1 h2 => ?_, fun x y z a m e hx hy hz => ⟨?_, ?_⟩⟩
  · rw [horner_triple, horner_pair]
    omega
  · rw [decodeMsg_triple hx hy hz]
    obtain ⟨b1, b0, hb, hv⟩ := decGroup_eq a.toNat m.toNat e.toNat
    exact ⟨b1, b0, congrArg _ hb, hv⟩
  · rw [decodeMsg_pair hx hy]
    obtain ⟨b, hb, hv⟩ := decTail_eq a.toNat m.toNat
    exact ⟨b, congrArg _ hb, hv⟩

/-- Settles O54: each word can be read back into its event. -/
theorem outputWordsDetermineEvents : Obligations.OutputWordsDetermineEvents :=
  ⟨fun _ _ h => Function.LeftInverse.injective encOutEvent_encOutWord h,
    fun _ _ _ _ h h' => (event_of_decOutWord h).symm.trans (event_of_decOutWord h'),
    fun _ _ _ h => kind_of_decOutWord h⟩

/-- Settles O3: presenting a table word puts its port word at the head, and that is what the step decodes. -/
theorem tableWordIsRunNext : Obligations.TableWordIsRunNext := by
  refine ⟨fun s nbits w hw hb => ⟨_, decodeTableWord_of_lt hw hb, ?_⟩, fun nbits w hw => ?_⟩
  · rw [State.withFetchWord, tableWord_of_lt hw hb]
    exact step_of_pending_cons rfl
  · rw [decodeTableWord, tableWord_of_le hw]

/-- Settles O5: match and mask fix the leading bits of the word, and the words with these are the encodings of the row's
operation. -/
theorem operationMapSelectsRow : Obligations.OperationMapSelectsRow := by
  refine ⟨fun w => ?_, fun w hw => ⟨?_, ?_, ?_, ?_, ?_, ?_⟩⟩
  · simp [resetMask_iff, dataMask_iff, endMask_iff, decodeWord_eq_iff, encode]
  · exact tableMask_iff (a := 0b01#2) rfl hw rfl rfl (bit_append_append_toNat (u := 0#1) (a := 1#1) rfl)
  · exact tableMask_iff (a := 0b000#3) rfl hw rfl rfl (bit_append_append_toNat (u := 0#1) (a := 0b00#2) rfl)
  · exact tableMask_iff (a := 0b001#3) rfl hw rfl rfl (bit_append_append_toNat (u := 0#1) (a := 0b01#2) rfl)
  · exact tableMask_iff (a := 0b11#2) rfl hw rfl rfl (bit_append_append_toNat (u := 1#1) (a := 1#1) rfl)
  · exact tableMask_iff (a := 0b100#3) rfl hw rfl rfl (bit_append_append_toNat (u := 1#1) (a := 0b00#2) rfl)
  · exact tableMask_iff (a := 0b101#3) rfl hw rfl rfl (bit_append_append_toNat (u := 1#1) (a := 0b01#2) rfl)

/-- Settles O6: each written word is the encoding of its operation. -/
theorem writtenWordsDecode : Obligations.WrittenWordsDecode :=
  ⟨decodeWord_encode (.encReset 0), decodeWord_encode (.encData 0x61), decodeWord_encode (.encEnd 0),
    decodeWord_encode (.decReset 0), decodeWord_encode (.decChar 0x43), decodeWord_encode (.decEnd 0)⟩

/-- Settles O13: neither working value overflows its width, and the bytes are its low 16 and low 8 bits. -/
theorem decoderValuesTruncate : Obligations.DecoderValuesTruncate := by
  intro d d1 d0 hd hd1 hd0
  have hgroup := decGroupValue_toNat d d1 d0 hd
  have htail := decTailValue_toNat (d0 := d0) hd1
  refine ⟨by omega, by omega, ?_, htail, by omega, ?_⟩
  · simp only [groupBytes, List.map_cons, List.map_nil, highByte_toNat, lowByte_toNat]
  · rw [tailByte_toNat, htail]

/-- Settles O53: the fields are those of the word that R83 lays out, and a position in range loses nothing. -/
theorem outputWordFormat : Obligations.OutputWordFormat := by
  refine ⟨fun c => ⟨encOutWord_char_kind c, encOutWord_char_data c⟩, rfl, fun posW b => ?_,
    fun posW => ⟨_, rfl, rfl, rfl, rfl⟩, fun posW k c p hp => ?_⟩
  · exact ⟨_, rfl, DecOutWord.kind_mk _ _ _ _, DecOutWord.data_mk _ _ _ _, rfl, rfl⟩
  · refine ⟨_, decOutWord_error_eq_some.mpr ⟨hp, rfl⟩, DecOutWord.kind_mk _ _ _ _, DecOutWord.data_mk _ _ _ _,
      k.code_eq, ?_⟩
    rw [BitVec.toNat_ofNat, Nat.mod_eq_of_lt hp]

end Sys2Proof.Machine
end

section
/-! SUPPORT. `digits` and `horner` (R112, R113, R115), the characters of the digits, and the codes that
have no digit (R117 to R119, R129, R130). -/

namespace Sys2Proof.Machine

theorem horner_digits {k v : Nat} (hv : v < 45 ^ k) : horner (digits v k) = v := by
  induction k generalizing v with
  | zero =>
    obtain rfl : v = 0 := by simpa using hv
    rfl
  | succ k ih =>
    have hq : v / radix < 45 ^ k := Nat.div_lt_of_lt_mul (by rwa [Nat.pow_succ'] at hv)
    rw [digits, horner, ih hq]
    exact Nat.div_add_mod' v radix

theorem digits_horner {ds : List Nat} (hds : ∀ d ∈ ds, d < 45) : digits (horner ds) ds.length = ds := by
  induction ds with
  | nil => rfl
  | cons d ds ih =>
    obtain ⟨hd, hds⟩ := List.forall_mem_cons.mp hds
    have hmod : (horner ds * radix + d) % radix = d := by simp only [radix]; omega
    have hdiv : (horner ds * radix + d) / radix = horner ds := by simp only [radix]; omega
    rw [horner, List.length_cons, digits, hmod, hdiv, ih hds]

@[simp] theorem length_digits (v k : Nat) : (digits v k).length = k := by
  induction k generalizing v with
  | zero => rfl
  | succ k ih => rw [digits, List.length_cons, ih]

theorem digits_lt {v k : Nat} : ∀ d ∈ digits v k, d < 45 := by
  induction k generalizing v with
  | zero => simp [digits]
  | succ k ih => exact List.forall_mem_cons.mpr ⟨Nat.mod_lt v (by decide), ih⟩

/-- The digits of a pair's value: the third needs no reduction (R112). -/
theorem digits_three {v : Nat} (hv : v ≤ 65535) : digits v 3 = [v % 45, v / 45 % 45, v / 2025] := by
  have htop : v / 45 / 45 % 45 = v / 2025 := by omega
  rw [← htop]
  rfl

/-- The digits of a tail byte: the second needs no reduction (R113). -/
theorem digits_two {v : Nat} (hv : v ≤ 255) : digits v 2 = [v % 45, v / 45] := by
  have htop : v / 45 % 45 = v / 45 := by omega
  rw [← htop]
  rfl

theorem digit_toNat {d : Nat} (hd : d < 45) : (BitVec.ofNat 6 d).toNat = d := by
  rw [BitVec.toNat_ofNat]
  omega

theorem romI_charOf {d : Nat} (hd : d < 45) : romI (charOf d) = some (BitVec.ofNat 6 d) := by
  rw [romI_eq_some_iff, romA_eq_some (by rw [digit_toNat hd]; omega), digit_toNat hd, charOf]

/-- Lower-case letters, tab, line feed, carriage return and the codes from 0x80 up are outside the alphabet (R129). -/
theorem romI_eq_none_of_listed (c : Byte) :
    (0x61 ≤ c.toNat ∧ c.toNat ≤ 0x7A) ∨ c ∈ [0x09, 0x0A, 0x0D] ∨ 0x80 ≤ c.toNat → romI c = none := by
  revert c
  decide

theorem charOf_mem_alphabet {d : Nat} (hd : d < 45) : charOf d ∈ alphabet :=
  List.mem_of_getElem? (romI_eq_some_iff.mp (romI_charOf hd))

theorem map_charOf_mem_alphabet {v k : Nat} : ∀ c ∈ (digits v k).map charOf, c ∈ alphabet :=
  List.forall_mem_map.mpr fun d hd => charOf_mem_alphabet (digits_lt d hd)

@[simp] theorem length_encPair (hi lo : Byte) : (encPair hi lo).length = 3 := by simp [encPair]

@[simp] theorem length_encTail (b : Byte) : (encTail b).length = 2 := by simp [encTail]

/-- The length law of R130. -/
theorem length_encodeMsg : ∀ b : List Byte,
    (encodeMsg b).length = 3 * (b.length / 2) + (if b.length % 2 = 1 then 2 else 0)
  | [] => rfl
  | [b] => by simp [encodeMsg]
  | hi :: lo :: rest => by
    have hdiv : (rest.length + 2) / 2 = rest.length / 2 + 1 := by omega
    have hmod : (rest.length + 2) % 2 = rest.length % 2 := by omega
    rw [encodeMsg, List.length_append, length_encPair, length_encodeMsg rest, List.length_cons, List.length_cons, hdiv, hmod]
    omega

theorem encodeMsg_mem_alphabet : ∀ b : List Byte, ∀ c ∈ encodeMsg b, c ∈ alphabet
  | [] => by simp [encodeMsg]
  | [_] => map_charOf_mem_alphabet
  | _ :: _ :: rest => List.forall_mem_append.mpr ⟨map_charOf_mem_alphabet, encodeMsg_mem_alphabet rest⟩

end Sys2Proof.Machine
end

section
/-! SUPPORT. `decodeGroups` character by character, and the walk of R124 as `decodeGroups` (R122 to R127). -/

namespace Sys2Proof.Machine
variable {c e f : Byte} {a m z : Digit} {p : Nat} {out : List Byte}

theorem lookUp_of_none {k : Nat → DecodeResult} (hc : romI c = none) : lookUp c p out k = .err .invalidCharacter c p out := by
  rw [lookUp, hc]

theorem lookUp_of_some {k : Nat → DecodeResult} (hc : romI c = some a) : lookUp c p out k = k a.toNat := by
  rw [lookUp, hc]

/-- One position of the walk is one look-up. -/
theorem decodeWalk_cons (seen : List (Byte × Nat)) (out : List Byte) (c : Byte) (t : List Byte) :
    decodeWalk seen out (c :: t) =
      lookUp c seen.length out fun x => decodeWalk ((c, x) :: seen) (out ++ groupAt seen.length seen x) t := by
  cases hc : romI c with
  | none => rw [lookUp_of_none hc, decodeWalk, hc]
  | some d => rw [lookUp_of_some hc, decodeWalk, hc]

theorem decodeWalk_nil (seen : List (Byte × Nat)) (out : List Byte) : decodeWalk seen out [] = finishAt seen.length seen out := rfl

section
variable {n : Nat} {seen : List (Byte × Nat)} {u v w : Nat}

theorem groupAt_of_mod_ne (hp : p % 3 ≠ 2) : groupAt p seen w = [] := by
  simp [groupAt, hp]

theorem groupAt_of_mod_two (hp : p % 3 = 2) : groupAt p ((e, v) :: (c, u) :: seen) w = decGroup u v w := by
  simp [groupAt, hp]

theorem finishAt_of_mod_zero (hn : n % 3 = 0) : finishAt n seen out = .ok out := by
  simp [finishAt, hn]

theorem finishAt_of_mod_one (hn : n % 3 = 1) : finishAt n ((c, u) :: seen) out = .err .danglingCharacter c (n - 1) out := by
  simp [finishAt, hn]

theorem finishAt_of_mod_two (hn : n % 3 = 2) : finishAt n ((e, v) :: (c, u) :: seen) out = .ok (out ++ decTail u v) := by
  simp [finishAt, hn]

end

/-- At a group boundary the walk goes on as the decoding group by group does. -/
theorem decodeWalk_eq_decodeGroups {seen : List (Byte × Nat)} {out : List Byte} (hseen : seen.length % 3 = 0) (s : List Byte) :
    decodeWalk seen out s = decodeGroups seen.length out s := by
  have h0 : seen.length % 3 ≠ 2 := by omega
  have h1 : (seen.length + 1) % 3 = 1 := by omega
  have h1' : (seen.length + 1) % 3 ≠ 2 := by omega
  have h2 : (seen.length + 2) % 3 = 2 := by omega
  match s with
  | [] => exact finishAt_of_mod_zero hseen
  | [c] =>
    simp only [decodeWalk_cons, decodeWalk_nil, decodeGroups, List.length_cons, groupAt_of_mod_ne h0, finishAt_of_mod_one h1,
      List.append_nil, Nat.add_sub_cancel]
  | [c, e] =>
    simp only [decodeWalk_cons, decodeWalk_nil, decodeGroups, List.length_cons, groupAt_of_mod_ne h0, groupAt_of_mod_ne h1',
      finishAt_of_mod_two h2, List.append_nil]
  | c :: e :: f :: t =>
    have ih (a m z : Nat) (bytes : List Byte) :
        decodeWalk ((f, z) :: (e, m) :: (c, a) :: seen) bytes t = decodeGroups (seen.length + 3) bytes t :=
      decodeWalk_eq_decodeGroups (by simp only [List.length_cons]; omega) t
    simp only [decodeWalk_cons, decodeGroups, List.length_cons, groupAt_of_mod_ne h0, groupAt_of_mod_ne h1',
      groupAt_of_mod_two h2, List.append_nil, ih]

theorem decodeMsg_eq_decodeGroups (s : List Byte) : decodeMsg s = decodeGroups 0 [] s :=
  decodeWalk_eq_decodeGroups rfl s

/-- Three valid characters are a complete group. -/
theorem decodeGroups_group (hc : romI c = some a) (he : romI e = some m) (hf : romI f = some z) (t : List Byte) :
    decodeGroups p out (c :: e :: f :: t) = decodeGroups (p + 3) (out ++ decGroup a.toNat m.toNat z.toNat) t := by
  rw [decodeGroups, lookUp_of_some hc, lookUp_of_some he, lookUp_of_some hf]

/-- Two valid last characters are a tail. -/
theorem decodeGroups_tail (hc : romI c = some a) (he : romI e = some m) :
    decodeGroups p out [c, e] = .ok (out ++ decTail a.toNat m.toNat) := by
  rw [decodeGroups, lookUp_of_some hc, lookUp_of_some he]

/-- One valid last character dangles. -/
theorem decodeGroups_dangling (hc : romI c = some a) :
    decodeGroups p out [c] = .err .danglingCharacter c p out := by
  rw [decodeGroups, lookUp_of_some hc]

theorem decodeGroups_invalid_first (hc : romI c = none) :
    ∀ t, decodeGroups p out (c :: t) = .err .invalidCharacter c p out
  | [] | [_] | _ :: _ :: _ => lookUp_of_none hc

theorem decodeGroups_invalid_second (hc : romI c = some a) (he : romI e = none) :
    ∀ t, decodeGroups p out (c :: e :: t) = .err .invalidCharacter e (p + 1) out
  | [] | _ :: _ => (lookUp_of_some hc).trans (lookUp_of_none he)

theorem decodeGroups_invalid_third (hc : romI c = some a) (he : romI e = some m) (hf : romI f = none) (t : List Byte) :
    decodeGroups p out (c :: e :: f :: t) = .err .invalidCharacter f (p + 2) out :=
  (lookUp_of_some hc).trans ((lookUp_of_some he).trans (lookUp_of_none hf))

/-- An invalid character among the three characters of a group stops the decoding before the group gives bytes (R125, R126). -/
theorem decodeGroups_invalid (hf : romI f = none) (t : List Byte) :
    ∀ {u : List Byte}, (∀ x ∈ u, romI x ≠ none) → u.length < 3 →
      decodeGroups p out (u ++ f :: t) = .err .invalidCharacter f (p + u.length) out
  | [], _, _ => decodeGroups_invalid_first hf t
  | [c], hu, _ => by
    obtain ⟨a, hc⟩ := Option.ne_none_iff_exists'.mp (hu c (by simp))
    exact decodeGroups_invalid_second hc hf t
  | [c, e], hu, _ => by
    obtain ⟨a, hc⟩ := Option.ne_none_iff_exists'.mp (hu c (by simp))
    obtain ⟨m, he⟩ := Option.ne_none_iff_exists'.mp (hu e (by simp))
    exact decodeGroups_invalid_third hc he hf t
  | _ :: _ :: _ :: u, _, hlen => by simp at hlen; omega

end Sys2Proof.Machine
end

section
/-! SUPPORT. The complete groups of valid characters at the head of a text, and what is left after them (R123 to R127). -/

namespace Sys2Proof.Machine
variable {s : List Byte}

/-- Complete groups of valid characters give two bytes each, the same whatever stands before and after them. -/
theorem exists_decodeGroups_append : ∀ {g : List Byte}, (∀ x ∈ g, romI x ≠ none) → g.length % 3 = 0 →
    ∃ bytes : List Byte, bytes.length = 2 * (g.length / 3) ∧
      ∀ p out t, decodeGroups p out (g ++ t) = decodeGroups (p + g.length) (out ++ bytes) t
  | [], _, _ => ⟨[], rfl, by simp⟩
  | [_], _, hlen => absurd hlen (by simp)
  | [_, _], _, hlen => absurd hlen (by simp)
  | c :: e :: f :: g, hg, hlen => by
    simp only [List.forall_mem_cons, Option.ne_none_iff_exists'] at hg
    obtain ⟨⟨a, hc⟩, ⟨m, he⟩, ⟨z, hf⟩, hg⟩ := hg
    obtain ⟨bytes, hbytes, hdec⟩ := exists_decodeGroups_append (g := g)
      (fun x hx => Option.ne_none_iff_exists'.mpr (hg x hx)) (by simp only [List.length_cons] at hlen; omega)
    refine ⟨decGroup a.toNat m.toNat z.toNat ++ bytes, ?_, fun p out t => ?_⟩
    · simp only [List.length_append, hbytes, decGroup, List.length_cons, List.length_nil]
      omega
    · simp only [List.cons_append, decodeGroups_group hc he hf, hdec, List.length_cons, List.append_assoc]
      congr 1
      omega

/-- A text of valid characters, whatever follows it, decodes its complete groups first; what is left of it is shorter than a
group. -/
theorem exists_decodeMsg_append (hs : ∀ x ∈ s, romI x ≠ none) :
    ∃ before : List Byte, before.length = 2 * (s.length / 3) ∧ decodeMsg (s.take (3 * (s.length / 3))) = .ok before ∧
      ∀ t, decodeMsg (s ++ t) = decodeGroups (3 * (s.length / 3)) before (s.drop (3 * (s.length / 3)) ++ t) := by
  have hlen : (s.take (3 * (s.length / 3))).length = 3 * (s.length / 3) := by rw [List.length_take]; omega
  obtain ⟨before, hbefore, hdec⟩ := exists_decodeGroups_append (g := s.take (3 * (s.length / 3)))
    (fun x hx => hs x (List.mem_of_mem_take hx)) (by omega)
  refine ⟨before, by omega, ?_, fun t => ?_⟩
  · simpa [decodeMsg_eq_decodeGroups, decodeGroups] using hdec 0 [] []
  · rw [decodeMsg_eq_decodeGroups]
    conv_lhs => rw [← List.take_append_drop (3 * (s.length / 3)) s, List.append_assoc]
    rw [hdec, hlen, Nat.zero_add, List.nil_append]

/-- What a text of valid characters decodes to: its complete groups' bytes, and then nothing, the dangling character or the
tail's byte, by its length modulo 3. -/
theorem decodeMsg_of_valid (hs : ∀ x ∈ s, romI x ≠ none) :
    ∃ before : List Byte, before.length = 2 * (s.length / 3) ∧ decodeMsg (s.take (3 * (s.length / 3))) = .ok before ∧
      ((s.length % 3 = 0 ∧ decodeMsg s = .ok before) ∨
       (s.length % 3 = 1 ∧ ∃ c, s[s.length - 1]? = some c ∧
          decodeMsg s = .err .danglingCharacter c (s.length - 1) before) ∨
       (s.length % 3 = 2 ∧ ∃ b, decodeMsg s = .ok (before ++ [b]))) := by
  obtain ⟨before, hbefore, htake, hdec⟩ := exists_decodeMsg_append hs
  refine ⟨before, hbefore, htake, ?_⟩
  have hdec := hdec []
  have hu : ∀ x ∈ s.drop (3 * (s.length / 3)), romI x ≠ none := fun x hx => hs x (List.mem_of_mem_drop hx)
  have hlen : (s.drop (3 * (s.length / 3))).length = s.length % 3 := by rw [List.length_drop]; omega
  have hlast : (s.drop (3 * (s.length / 3)))[0]? = s[3 * (s.length / 3)]? := by simp
  rw [List.append_nil, List.append_nil] at hdec
  generalize s.drop (3 * (s.length / 3)) = u at *
  match u, hlen with
  | [], hlen => exact .inl ⟨hlen.symm, hdec⟩
  | [c], hlen =>
    obtain ⟨a, hc⟩ := Option.ne_none_iff_exists'.mp (hu c (by simp))
    have hpos : s.length - 1 = 3 * (s.length / 3) := by simp at hlen; omega
    rw [hpos]
    exact .inr (.inl ⟨hlen.symm, c, hlast.symm, hdec.trans (decodeGroups_dangling hc)⟩)
  | [c, e], hlen =>
    obtain ⟨a, hc⟩ := Option.ne_none_iff_exists'.mp (hu c (by simp))
    obtain ⟨m, he⟩ := Option.ne_none_iff_exists'.mp (hu e (by simp))
    exact .inr (.inr ⟨hlen.symm, _, hdec.trans (decodeGroups_tail hc he)⟩)
  | _ :: _ :: _ :: u, hlen => simp at hlen; omega

/-- A text with an invalid character fails at the first of them, after the bytes of the complete groups before it. -/
theorem decodeMsg_of_invalid {l t : List Byte} {c : Byte} (hl : ∀ x ∈ l, romI x ≠ none) (hc : romI c = none) :
    ∃ before : List Byte, before.length = 2 * (l.length / 3) ∧ decodeMsg (l.take (3 * (l.length / 3))) = .ok before ∧
      decodeMsg (l ++ c :: t) = .err .invalidCharacter c l.length before := by
  obtain ⟨before, hbefore, htake, hdec⟩ := exists_decodeMsg_append hl
  have hlen : (l.drop (3 * (l.length / 3))).length = l.length % 3 := by rw [List.length_drop]; omega
  have hpos : 3 * (l.length / 3) + l.length % 3 = l.length := Nat.div_add_mod _ _
  refine ⟨before, hbefore, htake, ?_⟩
  rw [hdec, decodeGroups_invalid hc t (fun x hx => hl x (List.mem_of_mem_drop hx)) (by omega), hlen, hpos]

/-- The first invalid character of a text. -/
theorem exists_first_invalid (h : ∃ c ∈ s, romI c = none) :
    ∃ l c t, s = l ++ c :: t ∧ (∀ x ∈ l, romI x ≠ none) ∧ romI c = none := by
  obtain ⟨c, hfind⟩ := Option.isSome_iff_exists.mp
    (List.find?_isSome (p := fun c => decide (romI c = none)).mpr (by simpa using h))
  obtain ⟨hc, l, t, hs, hl⟩ := List.find?_eq_some_iff_append.mp hfind
  exact ⟨l, c, t, hs, by simpa using hl, of_decide_eq_true hc⟩

theorem valid_of_decodeMsg_ok {bytes : List Byte} (h : decodeMsg s = .ok bytes) : ∀ x ∈ s, romI x ≠ none := by
  intro x hx hn
  obtain ⟨l, c, t, rfl, hl, hc⟩ := exists_first_invalid ⟨x, hx, hn⟩
  obtain ⟨before, -, -, herr⟩ := decodeMsg_of_invalid (t := t) hl hc
  exact absurd (h.symm.trans herr) (by simp)

/-- The length of a decoded message (R130). -/
theorem length_of_decodeMsg_ok {bytes : List Byte} (h : decodeMsg s = .ok bytes) :
    bytes.length = 2 * (s.length / 3) + (if s.length % 3 = 2 then 1 else 0) := by
  obtain ⟨before, hbefore, -, hdec⟩ := decodeMsg_of_valid (valid_of_decodeMsg_ok h)
  rw [h] at hdec
  rcases hdec with ⟨hmod, hok⟩ | ⟨-, c, -, herr⟩ | ⟨hmod, b, hok⟩
  · cases hok
    simp [hbefore, hmod]
  · cases herr
  · cases hok
    simp [hbefore, hmod]

end Sys2Proof.Machine
end

section
/-! SUPPORT. Decoding an encoded message, group by group (R128). -/

namespace Sys2Proof.Machine
variable {p : Nat} {out : List Byte}

/-- A group whose value is that of a pair of bytes decodes to the pair. -/
theorem decGroup_eq_pair {a m z : Nat} {hi lo : Byte} (h : a + 45 * m + 2025 * z = hi.toNat * 256 + lo.toNat) :
    decGroup a m z = [hi, lo] := by
  obtain ⟨b1, b0, hb, hv⟩ := decGroup_eq a m z
  have hhi : b1 = hi := BitVec.eq_of_toNat_eq (by omega)
  have hlo : b0 = lo := BitVec.eq_of_toNat_eq (by omega)
  rw [hb, hhi, hlo]

/-- A tail whose value is that of a byte decodes to the byte. -/
theorem decTail_eq_byte {a z : Nat} {b : Byte} (h : a + 45 * z = b.toNat) : decTail a z = [b] := by
  obtain ⟨b', hb, hv⟩ := decTail_eq a z
  have hb' : b' = b := BitVec.eq_of_toNat_eq (by omega)
  rw [hb, hb']

/-- The three characters of a pair decode to the pair. -/
theorem decodeGroups_encPair (hi lo : Byte) (t : List Byte) :
    decodeGroups p out (encPair hi lo ++ t) = decodeGroups (p + 3) (out ++ [hi, lo]) t := by
  rw [encPair, digits_three (by omega)]
  have h0 : (hi.toNat * 256 + lo.toNat) % 45 < 45 := by omega
  have h1 : (hi.toNat * 256 + lo.toNat) / 45 % 45 < 45 := by omega
  have h2 : (hi.toNat * 256 + lo.toNat) / 2025 < 45 := by omega
  simp only [List.map_cons, List.map_nil, List.cons_append, List.nil_append]
  rw [decodeGroups_group (romI_charOf h0) (romI_charOf h1) (romI_charOf h2), digit_toNat h0, digit_toNat h1, digit_toNat h2,
    decGroup_eq_pair (hi := hi) (lo := lo) (by omega)]

/-- The two characters of a tail decode to the byte. -/
theorem decodeGroups_encTail (b : Byte) : decodeGroups p out (encTail b) = .ok (out ++ [b]) := by
  rw [encTail, digits_two (by omega)]
  have h0 : b.toNat % 45 < 45 := by omega
  have h1 : b.toNat / 45 < 45 := by omega
  simp only [List.map_cons, List.map_nil]
  rw [decodeGroups_tail (romI_charOf h0) (romI_charOf h1), digit_toNat h0, digit_toNat h1,
    decTail_eq_byte (b := b) (by omega)]

theorem decodeGroups_encodeMsg {p : Nat} {out : List Byte} :
    ∀ b : List Byte, decodeGroups p out (encodeMsg b) = .ok (out ++ b)
  | [] => by simp [encodeMsg, decodeGroups]
  | [b] => decodeGroups_encTail b
  | hi :: lo :: rest => by
    rw [encodeMsg, decodeGroups_encPair, decodeGroups_encodeMsg rest, List.append_assoc]
    rfl

end Sys2Proof.Machine
end

section
/-! The obligations of 40_reference_functions.md. -/

namespace Sys2Proof.Machine

/-- Settles O41: the start of the text is a group boundary. -/
theorem decodeWalkIsGroupByGroup : Obligations.DecodeWalkIsGroupByGroup := decodeMsg_eq_decodeGroups

/-- Settles O40: every encoded group decodes to its bytes; `V5` is another text of the byte 0, which encodes to `00`. -/
theorem decodeInvertsEncode : Obligations.DecodeInvertsEncode := by
  refine ⟨fun b => ?_, fun b => ?_, [0x56, 0x35], [0x00], by decide, by decide⟩
  · rw [decodeMsg_eq_decodeGroups, decodeGroups_encodeMsg, List.nil_append]
  · rw [length_encodeMsg]
    split <;> omega

/-- Settles O10, by induction on the number of digits. -/
theorem digitsAndHornerInvert : Obligations.DigitsAndHornerInvert :=
  ⟨fun _ _ => horner_digits, fun _ => digits_horner⟩

/-- Settles O39: both laws of the encoder go group by group, and a decoded text is one of valid characters. -/
theorem lengthLawAndClosure : Obligations.LengthLawAndClosure :=
  ⟨length_encodeMsg, encodeMsg_mem_alphabet, fun _ _ => length_of_decodeMsg_ok⟩

/-- Settles O42: the text is cut at its first invalid character, and the characters before it are valid. -/
theorem errorNamesLowestInvalid : Obligations.ErrorNamesLowestInvalid := by
  intro s h
  obtain ⟨l, c, t, rfl, hl, hc⟩ := exists_first_invalid h
  obtain ⟨before, hbefore, htake, herr⟩ := decodeMsg_of_invalid (t := t) hl hc
  refine ⟨c, l.length, before, herr, by simp, hc, fun q x hq hx => ?_, hbefore, ?_⟩
  · rw [List.getElem?_append_left hq] at hx
    exact hl x (List.mem_of_getElem? hx)
  · rwa [List.take_append_of_le_length (by omega)]

/-- Settles O43: by the length modulo 3 of a text of valid characters. -/
theorem validTextDecodesOrDangles : Obligations.ValidTextDecodesOrDangles := by
  intro s hs
  obtain ⟨before, hbefore, htake, ⟨hmod, hok⟩ | ⟨hmod, c, hlast, herr⟩ | ⟨hmod, b, hok⟩⟩ := decodeMsg_of_valid hs
  · exact ⟨fun _ => ⟨_, hok⟩, fun h => by omega⟩
  · exact ⟨fun h => absurd hmod h, fun _ => ⟨c, before, herr, hlast, hbefore, htake⟩⟩
  · exact ⟨fun _ => ⟨_, hok⟩, fun h => by omega⟩

/-- Settles O11: the bounds are linear arithmetic. -/
theorem encoderDigitBounds : Obligations.EncoderDigitBounds :=
  ⟨fun v hv => ⟨digits_three hv, by omega, by omega, by omega, by omega⟩,
    fun v hv => ⟨digits_two hv, by omega, by omega, by omega⟩, by decide, by decide⟩

/-- Settles O45: the fixtures are computed; a listed code is an invalid first character. -/
theorem documentFixtures : Obligations.DocumentFixtures := by
  refine ⟨by decide, by decide, rfl, rfl, by decide, by decide, by decide, by decide, by decide, by decide, by decide, by decide,
    by decide, fun c hc => ?_, by decide, by decide, by decide⟩
  have hn := romI_eq_none_of_listed c hc
  exact ⟨hn, (decodeMsg_eq_decodeGroups [c]).trans (decodeGroups_invalid_first hn [])⟩

end Sys2Proof.Machine
end

section
/-! SUPPORT. The characters of a group, in the machine, in the digit extraction pipeline and in `encode` (R85, R117,
R119, R143). -/

namespace Sys2Proof.Machine

variable (hi data : Byte)

theorem encPairValue_toNat : (encPairValue hi data).toNat = hi.toNat * 256 + data.toNat := by
  rw [encPairValue, BitVec.toNat_append, ← Nat.shiftLeft_add_eq_or_of_lt data.isLt, Nat.shiftLeft_eq]

theorem encTailValue_toNat : (encTailValue hi).toNat = hi.toNat := by
  rw [encTailValue]
  exact BitVec.toNat_setWidth_of_le (by decide)

/-- `k` stages in series give the characters of the `k` least significant digits. -/
theorem pipeline_eq_map_digits (k v : Nat) : pipeline k v = (digits v k).map charOf := by
  induction k generalizing v with
  | zero => rfl
  | succ k ih => rw [pipeline, digits, List.map_cons, stage, ih]; rfl

/-- The third character's `v / 2025` is two divisions by 45 (R81). -/
theorem pairChars_eq_pipeline (v : BitVec 16) : pairChars v = pipeline 3 v.toNat := by
  have hdiv : v.toNat / 2025 = v.toNat / 45 / 45 := by rw [Nat.div_div_eq_div_mul]
  rw [pairChars, hdiv]
  rfl

theorem tailChars_eq_pipeline (v : BitVec 16) : tailChars v = pipeline 2 v.toNat := rfl

theorem pairChars_encPairValue : pairChars (encPairValue hi data) = encPair hi data := by
  rw [pairChars_eq_pipeline, encPairValue_toNat, pipeline_eq_map_digits, encPair]

theorem tailChars_encTailValue : tailChars (encTailValue hi) = encTail hi := by
  rw [tailChars_eq_pipeline, encTailValue_toNat, pipeline_eq_map_digits, encTail]

end Sys2Proof.Machine
end

section
/-! SUPPORT. The branches of ENC.DATA and ENC.END, each with the state it answers (R141, R142). -/

namespace Sys2Proof.Machine

variable {data hi : Byte} {g : BitVec 8} {s : State}

theorem exec_encData_holds (hs : s.enc.started = true) (hh : s.enc.held = false) :
    exec (.encData data) s = .next (s.setEnc (s.enc.hold data)) :=
  exec_encData_next.mpr ⟨hs, .inl ⟨hh, rfl⟩⟩

theorem exec_encData_completes_pair (hs : s.enc.started = true) (hh : s.enc.held = true) (hv : s.enc.hi = some hi) :
    exec (.encData data) s =
      .next ((s.emitEnc ((pairChars (encPairValue hi data)).map .char)).setEnc s.enc.release) :=
  exec_encData_next.mpr ⟨hs, .inr ⟨hh, hi, hv, rfl⟩⟩

theorem exec_encEnd_of_not_held (hs : s.enc.started = true) (hh : s.enc.held = false) :
    exec (.encEnd g) s = .next ((s.emitEnc [.done]).setEnc s.enc.release) :=
  exec_encEnd_next.mpr ⟨hs, .inl ⟨hh, rfl⟩⟩

theorem exec_encEnd_of_held (hs : s.enc.started = true) (hh : s.enc.held = true) (hv : s.enc.hi = some hi) :
    exec (.encEnd g) s =
      .next ((s.emitEnc ((tailChars (encTailValue hi)).map .char ++ [.done])).setEnc s.enc.release) :=
  exec_encEnd_next.mpr ⟨hs, .inr ⟨hh, hi, hv, rfl⟩⟩

theorem EncState.release_of_not_held {e : EncState} (h : e.held = false) : e.release = e := by
  cases e
  cases h
  rfl

end Sys2Proof.Machine
end

section
/-! SUPPORT. Started blocks accept every operation and stay started (R144, R165, R193, R238). -/

namespace Sys2Proof.Machine

variable {i : Instr} {s t : State}

theorem exec_keeps_encStarted (hs : s.enc.started = true) (h : exec i s = .next t) : t.enc.started = true := by
  cases i with
  | encReset g =>
    obtain rfl := exec_encReset_next.mp h
    rfl
  | encData data => obtain ⟨-, ⟨-, rfl⟩ | ⟨-, hi, -, rfl⟩⟩ := exec_encData_next.mp h <;> exact hs
  | encEnd g => obtain ⟨-, ⟨-, rfl⟩ | ⟨-, hi, -, rfl⟩⟩ := exec_encEnd_next.mp h <;> exact hs
  | decReset g | decChar data | decEnd g => rwa [(exec_dec_frame rfl h).1]

theorem acceptDigit_started {d : Digit} (h : acceptDigit d s = .next t) : t.dec.started = s.dec.started := by
  obtain ⟨-, rfl⟩ | ⟨-, rfl⟩ | ⟨-, -, d1, d0, -, -, rfl⟩ := acceptDigit_next.mp h <;> rfl

theorem exec_keeps_decStarted (hs : s.dec.started = true) (h : exec i s = .next t) : t.dec.started = true := by
  cases i with
  | encReset g | encData data | encEnd g => rwa [(exec_enc_frame rfl h).1]
  | decReset g =>
    obtain rfl := exec_decReset_next.mp h
    rfl
  | decChar data =>
    obtain ⟨-, ⟨-, rfl⟩ | ⟨-, -, rfl⟩ | ⟨-, d, -, ha⟩⟩ := exec_decChar_next.mp h
    · exact hs
    · exact hs
    · rwa [acceptDigit_started ha]
  | decEnd g =>
    obtain ⟨-, ⟨-, rfl⟩ | ⟨-, -, rfl⟩ | ⟨-, -, d1, d0, -, -, rfl⟩ | ⟨-, -, -, d0, c, -, -, rfl⟩⟩ :=
      exec_decEnd_next.mp h <;> exact hs

theorem exec_keeps_started (hs : s.Started) (h : exec i s = .next t) : t.Started :=
  ⟨exec_keeps_encStarted hs.1 h, exec_keeps_decStarted hs.2 h⟩

theorem exec_next_inv_started (i : Instr) (h : s.Inv) (hs : s.Started) : ∃ t, exec i s = .next t ∧ t.Inv ∧ t.Started := by
  obtain ⟨t, ht⟩ := exec_next_of_inv h hs i
  exact ⟨t, ht, exec_keeps_inv h ht, exec_keeps_started hs ht⟩

/-- Each step takes one event from those presented and answers a state of the same kind. -/
theorem run_accepts_presented {l : List PortWord} (hp : s.pending = l) (h : s.Inv) (hs : s.Started) :
    ∃ t, run l.length s = .next t ∧ t.pending = [] ∧ t.Inv ∧ t.Started := by
  induction l generalizing s with
  | nil => exact ⟨s, rfl, hp, h, hs⟩
  | cons e rest ih =>
    obtain ⟨u, hu, hinv, hstarted⟩ := exec_next_inv_started (decodeWord e.port e.word) (h.setPending rest) hs
    rw [List.length_cons, run, step_of_pending_cons hp, hu]
    exact ih (exec_pending hu) hinv hstarted

end Sys2Proof.Machine
end

section
/-! SUPPORT. Runs of whole messages to ENC (R93, R118, R146, R147). -/

namespace Sys2Proof.Machine

/-- ENC's output events of a message (R146). -/
def encodeEvents (b : List Byte) : List EncOut := (encodeMsg b).map .char ++ [.done]

theorem encodeEvents_single (b : Byte) : encodeEvents [b] = (encTail b).map .char ++ [.done] := rfl

theorem encodeEvents_pair (hi lo : Byte) (b : List Byte) :
    encodeEvents (hi :: lo :: b) = (encPair hi lo).map .char ++ encodeEvents b := by
  rw [encodeEvents, encodeMsg, List.map_append, List.append_assoc, encodeEvents]

theorem length_encodeProgram (b : List Byte) : (encodeProgram b).length = b.length + 1 := by simp [encodeProgram]

section
variable {i : Instr} {l l' : List Instr} {s u : State}

theorem execAll_cons_of_next (h : exec i s = .next u) : execAll (i :: l) s = execAll l u := by
  rw [execAll, h]

theorem execAll_append_of_next (h : execAll l s = .next u) : execAll (l ++ l') s = execAll l' u := by
  induction l generalizing s with
  | nil => cases h; rfl
  | cons i l ih =>
    obtain ⟨v, hi, hl⟩ := execAll_cons_next.mp h
    rw [List.cons_append, execAll_cons_of_next hi, ih hl]

end

/-- `s` with ENC's registers at `e` and `l` emitted by ENC: what a run of ENC's operations other than RESET leaves. -/
def State.encAdvance (s : State) (l : List EncOut) (e : EncState) : State := (s.emitEnc l).setEnc e

section
variable {s : State} {l l' : List EncOut} {e e' : EncState} {hi lo : Byte}

theorem State.encAdvance_nil : s.encAdvance [] s.enc = s := by
  rw [State.encAdvance, State.emitEnc, OutPort.emit_nil]
  rfl

theorem State.encAdvance_encAdvance : (s.encAdvance l e).encAdvance l' e' = s.encAdvance (l ++ l') e' :=
  State.eq_of_fields rfl rfl (OutPort.emit_emit _ _ _) rfl rfl

/-- From the start of a message, two bytes emit the characters of their pair and leave ENC at the start of a message. -/
theorem execAll_encData_pair (h : s.enc.AtStart) (l : List Instr) :
    ∃ e, e.AtStart ∧
      execAll (.encData hi :: .encData lo :: l) s = execAll l (s.encAdvance ((encPair hi lo).map .char) e) := by
  obtain ⟨hs, hh⟩ := h
  refine ⟨(s.enc.hold hi).release, ⟨hs, rfl⟩, ?_⟩
  rw [← pairChars_encPairValue]
  exact (execAll_cons_of_next (exec_encData_holds hs hh)).trans
    (execAll_cons_of_next (exec_encData_completes_pair hs rfl rfl))

/-- From the start of a message, the program of `b` emits the events of `b` and leaves ENC at the start of a message: pair by
pair, as `encodeMsg` recurs. -/
theorem execAll_encodeProgram {s : State} (h : s.enc.AtStart) : ∀ b : List Byte,
    ∃ e, e.AtStart ∧ execAll (encodeProgram b) s = .next (s.encAdvance (encodeEvents b) e)
  | [] => ⟨s.enc.release, ⟨h.1, rfl⟩, execAll_cons_of_next (exec_encEnd_of_not_held h.1 h.2)⟩
  | [b] => by
    obtain ⟨hs, hh⟩ := h
    refine ⟨(s.enc.hold b).release, ⟨hs, rfl⟩, ?_⟩
    rw [encodeEvents_single, ← tailChars_encTailValue]
    exact (execAll_cons_of_next (exec_encData_holds hs hh)).trans
      (execAll_cons_of_next (exec_encEnd_of_held hs rfl rfl))
  | hi :: lo :: b => by
    obtain ⟨e, he, hpair⟩ := execAll_encData_pair (hi := hi) (lo := lo) h (encodeProgram b)
    obtain ⟨e', he', hrest⟩ := execAll_encodeProgram (s := s.encAdvance ((encPair hi lo).map .char) e) he b
    refine ⟨e', he', hpair.trans ?_⟩
    rw [hrest, State.encAdvance_encAdvance, encodeEvents_pair]

theorem execAll_encodePrograms (h : s.enc.AtStart) (ms : List (List Byte)) :
    ∃ e, e.AtStart ∧ execAll (ms.flatMap encodeProgram) s = .next (s.encAdvance (ms.flatMap encodeEvents) e) := by
  induction ms generalizing s with
  | nil => exact ⟨s.enc, h, congrArg _ State.encAdvance_nil.symm⟩
  | cons b ms ih =>
    obtain ⟨e, he, hb⟩ := execAll_encodeProgram h b
    obtain ⟨e', he', hms⟩ := ih (s := s.encAdvance (encodeEvents b) e) he
    refine ⟨e', he', ?_⟩
    rw [List.flatMap_cons, execAll_append_of_next hb, hms, State.encAdvance_encAdvance, List.flatMap_cons]

end

end Sys2Proof.Machine
end

section
/-! The obligations of 41_encoder_ops.md. -/

namespace Sys2Proof.Machine

/-- Settles O46: running the presented events is running the message's program, which goes pair by pair as `encode` does. -/
theorem encoderRefinesEncode : Obligations.EncoderRefinesEncode := by
  intro b rest s hstart hp
  obtain ⟨e, he, hexec⟩ := execAll_encodeProgram (s := { s with pending := rest }) hstart b
  have hrun := (run_eq_execAll hp).trans hexec
  rw [length_encodeProgram] at hrun
  exact ⟨_, hrun, he, rfl, congrArg (OutPort.mk _ · _) (List.append_assoc _ _ _).symm, rfl, rfl⟩

/-- Settles O15: the word is the encoding of ENC.DATA, and the two branches are those of R141. -/
theorem encDataHoldsOrCompletesPair : Obligations.EncDataHoldsOrCompletesPair := by
  intro data s hs
  refine ⟨decodeWord_encode (.encData data), fun hh => ?_, fun hi hh hv => ?_⟩
  · exact ⟨_, exec_encData_holds hs hh, rfl, rfl, rfl, rfl, rfl⟩
  · rw [← encPairValue_toNat]
    exact ⟨_, _, _, _, exec_encData_completes_pair hs hh hv, romAMod_eq _, romAMod_eq _, romAMod_eq _,
      rfl, rfl, rfl, rfl, rfl⟩

/-- Settles O16: the word is the encoding of ENC.END, and the two branches are those of R142. -/
theorem encEndClosesMessage : Obligations.EncEndClosesMessage := by
  intro g s hs
  refine ⟨decodeWord_enc_end g, fun hh => ?_, fun hi hh hv => ?_⟩
  · exact ⟨_, exec_encEnd_of_not_held hs hh, EncState.release_of_not_held hh, rfl, rfl, rfl, rfl⟩
  · rw [← encTailValue_toNat]
    exact ⟨_, _, _, exec_encEnd_of_held hs hh hv, romAMod_eq _, romAMod_eq _, rfl, rfl, rfl, rfl, rfl⟩

/-- Settles O27: the invariant rules out faults, started blocks refuse nothing, and every operation keeps both. -/
theorem startedBlocksAcceptEveryEvent : Obligations.StartedBlocksAcceptEveryEvent :=
  fun i _ => exec_next_inv_started i

/-- Settles O28, by induction on the list of presented events. -/
theorem presentedEventsAreAllAccepted : Obligations.PresentedEventsAreAllAccepted :=
  fun _ => run_accepts_presented rfl

/-- Settles O49: every message ends at the start of a message, by induction on the list of messages. -/
theorem encoderMessagesAreIndependent : Obligations.EncoderMessagesAreIndependent := by
  intro ms s hstart
  obtain ⟨e, he, hexec⟩ := execAll_encodePrograms hstart ms
  exact ⟨_, hexec, he, rfl⟩

/-- Settles O12: the working values are those of R85, and each stage divides by 45 once more. -/
theorem pipelineGivesGroupCharacters : Obligations.PipelineGivesGroupCharacters := by
  intro hi data
  rw [pairChars_eq_pipeline, encPairValue_toNat, tailChars_eq_pipeline, encTailValue_toNat]
  exact ⟨rfl, rfl⟩

/-- Settles O14: ENC.RESET answers in every state, and what it delivers is a `take` of the undelivered events. -/
theorem encResetStartsMessage : Obligations.EncResetStartsMessage :=
  fun g _ => ⟨decodeWord_enc_reset g, _, exec_encReset_next.mpr rfl, rfl, rfl, rfl, rfl,
    ⟨_, List.take_prefix _ _, OutPort.flush_delivered _ _⟩, rfl, rfl, rfl⟩

end Sys2Proof.Machine
end

section
/-! SUPPORT. The bytes that DEC takes from its working values are those of the whole-message functions (R86, R122, R123). -/

namespace Sys2Proof.Machine

variable (d d1 d0 : Digit)

theorem groupBytes_decGroupValue (hd : d.toNat ≤ 44) :
    groupBytes (decGroupValue d d1 d0) = decGroup d0.toNat d1.toNat d.toNat := by
  have hv := decGroupValue_toNat d d1 d0 hd
  obtain ⟨b1, b0, hb, hbytes⟩ := decGroup_eq d0.toNat d1.toNat d.toNat
  have hhigh : (decGroupValue d d1 d0).extractLsb' 8 8 = b1 :=
    BitVec.eq_of_toNat_eq (by rw [highByte_toNat]; omega)
  have hlow : (decGroupValue d d1 d0).extractLsb' 0 8 = b0 :=
    BitVec.eq_of_toNat_eq (by rw [lowByte_toNat]; omega)
  rw [groupBytes, hb, hhigh, hlow]

/-- The tail's byte is exact for all digits: an overflow of the 11 bits does not reach it. -/
theorem tailByte_decTailValue_toNat :
    (tailByte (decTailValue d1 d0)).toNat = (d1.toNat * 45 + d0.toNat) % 256 := by
  rw [tailByte_toNat, decTailValue, BitVec.toNat_ofNat]
  omega

theorem decTail_eq_tailByte : decTail d0.toNat d1.toNat = [tailByte (decTailValue d1 d0)] := by
  obtain ⟨b, hb, hbyte⟩ := decTail_eq d0.toNat d1.toNat
  have htail : b = tailByte (decTailValue d1 d0) :=
    BitVec.eq_of_toNat_eq (by rw [tailByte_decTailValue_toNat]; omega)
  rw [hb, htail]

end Sys2Proof.Machine
end

section
/-! SUPPORT. The remaining branches of DEC.CHAR and DEC.END, each with the state it answers (R161, R162). -/

namespace Sys2Proof.Machine

variable {data : Byte} {g : BitVec 8} {d d1 d0 : Digit} {s : State}

theorem exec_decChar_drains (hs : s.dec.started = true) (hf : s.dec.failed = true) :
    exec (.decChar data) s = .next s :=
  exec_decChar_next.mpr ⟨hs, .inl ⟨hf, rfl⟩⟩

theorem exec_decChar_raises (hs : s.dec.started = true) (hf : s.dec.failed = false) (hd : romI data = none) :
    exec (.decChar data) s = .next (s.raiseError .invalidCharacter data s.dec.pos) :=
  exec_decChar_next.mpr ⟨hs, .inr (.inl ⟨hf, hd, rfl⟩)⟩

theorem exec_decChar_holds_first (hs : s.dec.started = true) (hf : s.dec.failed = false) (hd : romI data = some d)
    (hc : s.dec.cnt = 0#2) : exec (.decChar data) s = .next (s.setDec (s.dec.holdFirst d)) :=
  exec_decChar_next.mpr ⟨hs, .inr (.inr ⟨hf, d, hd, acceptDigit_next.mpr (.inl ⟨hc, rfl⟩)⟩)⟩

theorem exec_decChar_holds_second (hs : s.dec.started = true) (hf : s.dec.failed = false) (hd : romI data = some d)
    (hc : s.dec.cnt = 1#2) : exec (.decChar data) s = .next (s.setDec (s.dec.holdSecond d)) :=
  exec_decChar_next.mpr ⟨hs, .inr (.inr ⟨hf, d, hd, acceptDigit_next.mpr (.inr (.inl ⟨hc, rfl⟩))⟩)⟩

theorem exec_decEnd_drains (hs : s.dec.started = true) (hf : s.dec.failed = true) :
    exec (.decEnd g) s = .next s.startDecMessage :=
  exec_decEnd_next.mpr ⟨hs, .inl ⟨hf, rfl⟩⟩

theorem exec_decEnd_done (hs : s.dec.started = true) (hf : s.dec.failed = false) (hc : s.dec.cnt = 0#2) :
    exec (.decEnd g) s = .next (s.emitDec [.done]).startDecMessage :=
  exec_decEnd_next.mpr ⟨hs, .inr (.inl ⟨hf, hc, rfl⟩)⟩

theorem exec_decEnd_tail (hs : s.dec.started = true) (hf : s.dec.failed = false) (hc : s.dec.cnt = 2#2)
    (h1 : s.dec.d1 = some d1) (h0 : s.dec.d0 = some d0) :
    exec (.decEnd g) s = .next (s.emitDec [.byte (tailByte (decTailValue d1 d0)), .done]).startDecMessage :=
  exec_decEnd_next.mpr ⟨hs, .inr (.inr (.inl ⟨hf, hc, d1, d0, h1, h0, rfl⟩))⟩

/-- The character that DEC.END reads back from the digit of `c` is `c` (R54). -/
theorem getD_alphabet_of_romI {c : Byte} (h : romI c = some d) : alphabet.getD d.toNat 0 = c :=
  Option.some.inj ((romA_eq_some (romI_le c d h)).symm.trans (romI_eq_some_iff.mp h))

end Sys2Proof.Machine
end

section
/-! SUPPORT. DEC's operations follow the walk of R124 character by character. -/

namespace Sys2Proof.Machine

/-- `s` with DEC's registers at `x` and `l` emitted by DEC: what a run of DEC's operations other than RESET leaves. -/
def State.decAdvance (s : State) (l : List DecOut) (x : DecState) : State := (s.emitDec l).setDec x

/-- The held digits are those of the characters of the current, incomplete group, in the list of the characters read with
their digits, the latest first (R24, R25). One constructor per value of `dec.cnt`. -/
inductive DecState.Holds (x : DecState) : List (Byte × Nat) → Prop where
  | none {seen : List (Byte × Nat)} (hcnt : x.cnt = 0#2) (hseen : seen.length % 3 = 0) : Holds x seen
  | first {seen : List (Byte × Nat)} {c : Byte} {a : Digit} (hcnt : x.cnt = 1#2) (hseen : seen.length % 3 = 0)
      (hc : romI c = some a) (h0 : x.d0 = some a) : Holds x ((c, a.toNat) :: seen)
  | second {seen : List (Byte × Nat)} {c e : Byte} {a m : Digit} (hcnt : x.cnt = 2#2) (hseen : seen.length % 3 = 0)
      (h0 : x.d0 = some a) (h1 : x.d1 = some m) : Holds x ((e, m.toNat) :: (c, a.toNat) :: seen)

/-- DEC is in the middle of a message of which it has read `seen`, all valid. -/
structure DecState.Reads (x : DecState) (seen : List (Byte × Nat)) : Prop where
  started : x.started = true
  failed : x.failed = false
  pos : x.pos = seen.length
  holds : x.Holds seen

section
variable {s : State} {x x' : DecState} {l l' : List DecOut}

theorem State.decAdvance_nil : s.decAdvance [] x = s.setDec x := by
  rw [State.decAdvance, State.emitDec, OutPort.emit_nil]

theorem State.decAdvance_nil_self : s.decAdvance [] s.dec = s := State.decAdvance_nil

theorem State.decAdvance_decAdvance : (s.decAdvance l x).decAdvance l' x' = s.decAdvance (l ++ l') x' :=
  State.eq_of_fields rfl rfl rfl (OutPort.emit_emit _ _ _) rfl

theorem DecState.AtStart.reads_nil (h : x.AtStart) : x.Reads [] := by
  obtain ⟨hs, hcnt, hpos, hf⟩ := h
  exact ⟨hs, hf, hpos, .none hcnt rfl⟩

theorem State.startDecMessage_atStart (hs : s.dec.started = true) : s.startDecMessage.dec.AtStart := ⟨hs, rfl, rfl, rfl⟩

end

section
variable {s : State} {seen : List (Byte × Nat)}

/-- DEC.CHAR on a valid character emits what the walk appends at that position, and goes on reading. -/
theorem exec_decChar_of_reads {c : Byte} {d : Digit} (h : s.dec.Reads seen) (hc : romI c = some d) :
    ∃ x, x.Reads ((c, d.toNat) :: seen) ∧
      exec (.decChar c) s = .next (s.decAdvance ((groupAt seen.length seen d.toNat).map .byte) x) := by
  obtain ⟨hs, hf, hpos, hholds⟩ := h
  have hpos' : s.dec.pos + 1 = ((c, d.toNat) :: seen).length := by rw [hpos, List.length_cons]
  cases hholds with
  | none hcnt hseen =>
    refine ⟨s.dec.holdFirst d, ⟨hs, hf, hpos', .first rfl hseen hc rfl⟩, ?_⟩
    rw [groupAt_of_mod_ne (by omega), List.map_nil, State.decAdvance_nil]
    exact exec_decChar_holds_first hs hf hc hcnt
  | first hcnt hseen _ h0 =>
    refine ⟨s.dec.holdSecond d, ⟨hs, hf, hpos', .second rfl hseen h0 rfl⟩, ?_⟩
    rw [groupAt_of_mod_ne (by rw [List.length_cons]; omega), List.map_nil, State.decAdvance_nil]
    exact exec_decChar_holds_second hs hf hc hcnt
  | second hcnt hseen h0 h1 =>
    refine ⟨s.dec.closeGroup, ⟨hs, hf, hpos', .none rfl (by simp only [List.length_cons]; omega)⟩, ?_⟩
    rw [groupAt_of_mod_two (by simp only [List.length_cons]; omega), ← groupBytes_decGroupValue _ _ _ (romI_le c d hc)]
    exact exec_decChar_completes_group hs hf hc (by simp [hcnt]) (by simp [hcnt]) h1 h0

/-- DEC.END emits what the walk adds at the end of the text. -/
theorem exec_decEnd_of_reads {g : BitVec 8} (h : s.dec.Reads seen) :
    ∃ x l, x.AtStart ∧ exec (.decEnd g) s = .next (s.decAdvance l x) ∧
      ∀ out, (finishAt seen.length seen out).events = out.map .byte ++ l := by
  obtain ⟨hs, hf, hpos, hholds⟩ := h
  refine ⟨s.startDecMessage.dec, ?_⟩
  cases hholds with
  | none hcnt hseen =>
    refine ⟨_, State.startDecMessage_atStart hs, exec_decEnd_done hs hf hcnt, fun out => ?_⟩
    rw [finishAt_of_mod_zero hseen, DecodeResult.events]
  | first hcnt hseen hc h0 =>
    refine ⟨_, State.startDecMessage_atStart hs,
      exec_decEnd_dangles hs hf (by simp [hcnt]) (by simp [hcnt]) h0 (romI_le _ _ hc), fun out => ?_⟩
    rw [finishAt_of_mod_one (by rw [List.length_cons]; omega), DecodeResult.events, getD_alphabet_of_romI hc, hpos]
  | second hcnt hseen h0 h1 =>
    refine ⟨_, State.startDecMessage_atStart hs, exec_decEnd_tail hs hf hcnt h1 h0, fun out => ?_⟩
    rw [finishAt_of_mod_two (by simp only [List.length_cons]; omega), DecodeResult.events, decTail_eq_tailByte,
      List.map_append, List.append_assoc]
    rfl

/-- Valid characters take DEC and the walk to the same place, having produced the same bytes. -/
theorem execAll_decChars_of_reads {m : List Byte} (h : s.dec.Reads seen) (hm : ∀ c ∈ m, romI c ≠ none) :
    ∃ (bytes : List Byte) (seen' : List (Byte × Nat)) (x : DecState), x.Reads seen' ∧
      seen'.length = seen.length + m.length ∧
      execAll (m.map .decChar) s = .next (s.decAdvance (bytes.map .byte) x) ∧
      ∀ out t, decodeWalk seen out (m ++ t) = decodeWalk seen' (out ++ bytes) t := by
  induction m generalizing s seen with
  | nil => exact ⟨[], seen, s.dec, h, rfl, congrArg _ State.decAdvance_nil_self.symm, by simp⟩
  | cons c m ih =>
    obtain ⟨hc, hm⟩ := List.forall_mem_cons.mp hm
    obtain ⟨d, hc⟩ := Option.ne_none_iff_exists'.mp hc
    obtain ⟨x, hx, hexec⟩ := exec_decChar_of_reads h hc
    obtain ⟨bytes, seen', x', hx', hlen, hrest, hwalk⟩ :=
      ih (s := s.decAdvance ((groupAt seen.length seen d.toNat).map .byte) x) hx hm
    refine ⟨groupAt seen.length seen d.toNat ++ bytes, seen', x', hx', ?_, ?_, fun out t => ?_⟩
    · rw [hlen, List.length_cons, List.length_cons, Nat.add_assoc, Nat.add_comm 1]
    · rw [List.map_cons, execAll_cons_of_next hexec, hrest, State.decAdvance_decAdvance, ← List.map_append]
    · rw [List.cons_append, decodeWalk_cons, lookUp_of_some hc, hwalk, List.append_assoc]

end

end Sys2Proof.Machine
end

section
/-! SUPPORT. Runs of whole messages to DEC (R93, R124, R170, R171). -/

namespace Sys2Proof.Machine

section
variable {s : State} {m : List Byte} {c : Byte}

theorem decodeProgram_cons (c : Byte) (m : List Byte) : decodeProgram (c :: m) = .decChar c :: decodeProgram m := rfl

/-- The program of a message, cut after one of its characters. -/
theorem decodeProgram_append_cons (m : List Byte) (c : Byte) (t : List Byte) :
    decodeProgram (m ++ c :: t) = (m ++ [c]).map .decChar ++ decodeProgram t := by
  simp [decodeProgram]

theorem length_decodeProgram (m : List Byte) : (decodeProgram m).length = m.length + 1 := by simp [decodeProgram]

/-- The rest of a failed message is drained without output, up to its DEC.END (R171, R200). -/
theorem execAll_decodeProgram_of_failed (hs : s.dec.started = true) (hf : s.dec.failed = true) (m : List Byte) :
    execAll (decodeProgram m) s = .next s.startDecMessage := by
  induction m with
  | nil => exact execAll_cons_of_next (exec_decEnd_drains hs hf)
  | cons c m ih => rw [decodeProgram_cons, execAll_cons_of_next (exec_decChar_drains hs hf), ih]

/-- A message of valid characters: each is followed as in the walk, and DEC.END closes it. -/
theorem execAll_decodeProgram_of_valid (h : s.dec.AtStart) (hm : ∀ c ∈ m, romI c ≠ none) :
    ∃ x, x.AtStart ∧ execAll (decodeProgram m) s = .next (s.decAdvance (decodeMsg m).events x) := by
  obtain ⟨bytes, seen, x, hx, -, hexec, hwalk⟩ := execAll_decChars_of_reads h.reads_nil hm
  obtain ⟨x', l, hx', hend, hfinish⟩ :=
    exec_decEnd_of_reads (g := 0) (s := s.decAdvance (bytes.map .byte) x) hx
  have hmsg : decodeMsg m = finishAt seen.length seen bytes := by simpa [decodeMsg, decodeWalk_nil] using hwalk [] []
  refine ⟨x', hx', ?_⟩
  rw [decodeProgram, execAll_append_of_next hexec, execAll_cons_of_next hend, State.decAdvance_decAdvance, hmsg, hfinish]
  rfl

/-- The first invalid character of a message has produced all of the message's output, whatever follows it, and DEC is left
in the failed state at that character's position. -/
theorem execAll_decChars_of_invalid (h : s.dec.AtStart) (hm : ∀ x ∈ m, romI x ≠ none) (hc : romI c = none)
    (t : List Byte) : ∃ x, x.started = true ∧ x.failed = true ∧ x.pos = m.length ∧
    execAll ((m ++ [c]).map .decChar) s = .next (s.decAdvance (decodeMsg (m ++ c :: t)).events x) := by
  obtain ⟨bytes, seen, x, ⟨hs, hf, hpos, -⟩, hlen, hexec, hwalk⟩ := execAll_decChars_of_reads h.reads_nil hm
  have hmsg : decodeMsg (m ++ c :: t) = .err .invalidCharacter c seen.length bytes := by
    rw [decodeMsg, hwalk, decodeWalk_cons, lookUp_of_none hc, List.nil_append]
  refine ⟨{ x with failed := true }, hs, rfl, by simpa [hlen] using hpos, ?_⟩
  rw [List.map_append, execAll_append_of_next hexec]
  refine (execAll_cons_of_next (exec_decChar_raises hs hf hc)).trans (congrArg _ ?_)
  rw [hmsg, DecodeResult.events, ← hpos]
  exact State.decAdvance_decAdvance

/-- From the start of a message, the program of `m` emits the events of `decode m` and leaves DEC at the start of a message. -/
theorem execAll_decodeProgram (h : s.dec.AtStart) (m : List Byte) :
    ∃ x, x.AtStart ∧ execAll (decodeProgram m) s = .next (s.decAdvance (decodeMsg m).events x) := by
  by_cases hm : ∃ c ∈ m, romI c = none
  · obtain ⟨m, c, t, rfl, hm, hc⟩ := exists_first_invalid hm
    obtain ⟨x, hs, hf, -, hexec⟩ := execAll_decChars_of_invalid h hm hc t
    refine ⟨_, State.startDecMessage_atStart (s := s.setDec x) hs, ?_⟩
    rw [decodeProgram_append_cons, execAll_append_of_next hexec, execAll_decodeProgram_of_failed hs hf]
    rfl
  · exact execAll_decodeProgram_of_valid h (by simpa using hm)

theorem execAll_decodePrograms (h : s.dec.AtStart) (ms : List (List Byte)) :
    ∃ x, x.AtStart ∧
      execAll (ms.flatMap decodeProgram) s = .next (s.decAdvance (ms.flatMap fun m => (decodeMsg m).events) x) := by
  induction ms generalizing s with
  | nil => exact ⟨s.dec, h, congrArg _ State.decAdvance_nil_self.symm⟩
  | cons m ms ih =>
    obtain ⟨x, hx, hm⟩ := execAll_decodeProgram h m
    obtain ⟨x', hx', hms⟩ := ih (s := s.decAdvance (decodeMsg m).events x) hx
    refine ⟨x', hx', ?_⟩
    rw [List.flatMap_cons, execAll_append_of_next hm, hms, State.decAdvance_decAdvance, List.flatMap_cons]

/-- A message that fails with InvalidCharacter at `p` is cut there: valid characters, then an invalid one. -/
theorem exists_invalid_at {p : Nat} {before : List Byte} (h : decodeMsg m = .err .invalidCharacter c p before) :
    ∃ l t, m = l ++ c :: t ∧ l.length = p ∧ (∀ x ∈ l, romI x ≠ none) ∧ romI c = none := by
  by_cases hm : ∃ c ∈ m, romI c = none
  · obtain ⟨l, c', t, rfl, hl, hc'⟩ := exists_first_invalid hm
    obtain ⟨before', -, -, herr⟩ := decodeMsg_of_invalid (t := t) hl hc'
    cases h.symm.trans herr
    exact ⟨l, t, rfl, rfl, hl, hc'⟩
  · obtain ⟨before', -, -, ⟨-, hok⟩ | ⟨-, c', -, herr⟩ | ⟨-, b, hok⟩⟩ := decodeMsg_of_valid (s := m) (by simpa using hm)
    · cases h.symm.trans hok
    · cases h.symm.trans herr
    · cases h.symm.trans hok

end

/-! ### The consumer and the wiring -/

/-- The consumer collects the bytes that no terminator has followed yet. -/
theorem consume_bytes (bytes : List Byte) (l : List DecOut) :
    ∀ acc, consume acc (bytes.map .byte ++ l) = consume (acc ++ bytes) l := by
  induction bytes with
  | nil => simp
  | cons b bytes ih =>
    intro acc
    rw [List.map_cons, List.cons_append, consume, ih, List.append_assoc, List.singleton_append]

/-- One verdict per message, after which the consumer starts afresh (R199, R232). -/
theorem consume_events (r : DecodeResult) (l : List DecOut) : consume [] (r.events ++ l) = r.accepted :: consume [] l := by
  cases r with
  | ok bytes => rw [DecodeResult.events, List.append_assoc, consume_bytes]; rfl
  | err kind c p before => rw [DecodeResult.events, List.append_assoc, consume_bytes]; rfl

theorem consume_flatMap_events (ms : List (List Byte)) :
    consume [] (ms.flatMap fun m => (decodeMsg m).events) = ms.map fun m => (decodeMsg m).accepted := by
  induction ms with
  | nil => rfl
  | cons m ms ih => rw [List.flatMap_cons, consume_events, ih, List.map_cons]

/-- ENC's output of a message, wired to DEC, is the program of the encoded text (R68, R172). -/
theorem map_wire_encodeEvents (b : List Byte) : (encodeEvents b).map wire = decodeProgram (encodeMsg b) := by
  rw [encodeEvents, List.map_append, List.map_map]
  rfl

end Sys2Proof.Machine
end

section
/-! The obligations of 42_decoder_ops.md. -/

namespace Sys2Proof.Machine

/-- Settles O47: running the presented events is running the message's program; a message that fails with InvalidCharacter is
cut at its first invalid character. -/
theorem decoderRefinesDecode : Obligations.DecoderRefinesDecode := by
  intro m rest s hstart hp
  constructor
  · obtain ⟨x, hx, hexec⟩ := execAll_decodeProgram (s := { s with pending := rest }) hstart m
    have hrun := (run_eq_execAll hp).trans hexec
    rw [length_decodeProgram] at hrun
    exact ⟨_, hrun, hx, rfl, rfl, rfl, rfl⟩
  · intro c p before herr
    obtain ⟨l, t, rfl, rfl, hl, hc⟩ := exists_invalid_at herr
    obtain ⟨x, -, hf, hpos, hexec⟩ := execAll_decChars_of_invalid
      (s := { s with pending := (decodeProgram t).map encode ++ rest }) hstart hl hc t
    have hp' : s.pending = ((l ++ [c]).map .decChar).map encode ++ ((decodeProgram t).map encode ++ rest) := by
      rw [hp, decodeProgram_append_cons, List.map_append, List.append_assoc]
    have hrun := (run_eq_execAll hp').trans hexec
    rw [List.length_map, List.length_append, List.length_singleton] at hrun
    exact ⟨_, hrun, hf, hpos, rfl⟩

/-- Settles O48: ENC's output is the program of the encoded text, which decodes to the message. -/
theorem encoderFeedsDecoder : Obligations.EncoderFeedsDecoder := by
  intro b s henc hdec
  obtain ⟨e, he, hrun⟩ := execAll_encodeProgram henc b
  obtain ⟨x, hx, hwired⟩ := execAll_decodeProgram (s := s.encAdvance (encodeEvents b) e) hdec (encodeMsg b)
  have hmsg : decodeMsg (encodeMsg b) = .ok b := decodeInvertsEncode.1 b
  rw [← map_wire_encodeEvents, hmsg] at hwired
  exact ⟨_, _, encodeEvents b, hrun, rfl, hwired, he, hx, (List.append_assoc _ _ _).symm⟩

/-- Settles O50: every message ends at the start of a message and with one terminator, by induction on the list of messages. -/
theorem decoderMessagesAreIndependent : Obligations.DecoderMessagesAreIndependent := by
  intro ms s hstart
  obtain ⟨x, hx, hexec⟩ := execAll_decodePrograms hstart ms
  exact ⟨_, _, hexec, hx, rfl, rfl, consume_flatMap_events ms⟩

/-- Settles O18: the word is the encoding of DEC.CHAR, and the five branches are those of R161. -/
theorem decCharDecodesCharacter : Obligations.DecCharDecodesCharacter := by
  intro data s hs
  refine ⟨decodeWord_encode (.decChar data), exec_decChar_drains hs, fun hf hd => ?_, fun d hf hd hc => ?_,
    fun d hf hd hc => ?_, fun d d1 d0 hf hd hc h1 h0 => ?_⟩
  · exact ⟨_, exec_decChar_raises hs hf hd, rfl, rfl, rfl, rfl, rfl⟩
  · exact ⟨_, exec_decChar_holds_first hs hf hd hc, rfl, rfl, rfl, rfl, rfl⟩
  · exact ⟨_, exec_decChar_holds_second hs hf hd hc, rfl, rfl, rfl, rfl, rfl⟩
  · rw [← decGroupValue_toNat d d1 d0 (romI_le data d hd)]
    exact ⟨_, _, _, exec_decChar_completes_group hs hf hd (by simp [hc]) (by simp [hc]) h1 h0, highByte_toNat _,
      lowByte_toNat _, rfl, rfl, rfl, rfl, rfl⟩

/-- Settles O19: the word is the encoding of DEC.END, and the four branches are those of R162. -/
theorem decEndClosesMessage : Obligations.DecEndClosesMessage := by
  intro g s hs
  refine ⟨decodeWord_dec_end g, fun hf => ?_, fun hf hc => ?_, fun d1 d0 hf hc h1 h0 => ?_,
    fun d0 p hf hc h0 hle hpos => ?_⟩
  · exact ⟨_, exec_decEnd_drains hs hf, rfl, rfl, rfl, rfl, rfl⟩
  · exact ⟨_, exec_decEnd_done hs hf hc, rfl, rfl, rfl, rfl, rfl⟩
  · exact ⟨_, _, exec_decEnd_tail hs hf hc h1 h0, tailByte_decTailValue_toNat d1 d0, rfl, rfl, rfl, rfl, rfl⟩
  · have hp : s.dec.pos - 1 = p := by omega
    rw [← hp]
    exact ⟨_, _, exec_decEnd_dangles hs hf (by simp [hc]) (by simp [hc]) h0 hle, romA_eq_some hle, rfl, rfl, rfl, rfl, rfl⟩

/-- Settles O17: DEC.RESET answers in every state, and what it delivers is a `take` of the undelivered events. -/
theorem decResetStartsMessage : Obligations.DecResetStartsMessage :=
  fun g _ => ⟨decodeWord_dec_reset g, _, exec_decReset_next.mpr rfl, rfl, rfl, rfl, rfl, rfl, rfl, rfl,
    ⟨_, List.take_prefix _ _, OutPort.flush_delivered _ _⟩, rfl, rfl, rfl⟩

end Sys2Proof.Machine
end

section
/-! SUPPORT. Which operation reports an error: `State.Raises` holds exactly where the emitted events contain the report
(R190, R195, R197). -/

namespace Sys2Proof.Machine

variable {i : Instr} {s t : State} {k : ErrCode} {c : Byte} {p : Nat} {l : List DecOut}

/-- Outside the failed state a count other than 0 and 2 is 1 under the invariant, and the dangling character had a
position (R36). -/
theorem DecState.Inv.one_held {x : DecState} (h : x.Inv) (hs : x.started = true) (hf : x.failed = false)
    (h0 : x.cnt ≠ 0#2) (h2 : x.cnt ≠ 2#2) : x.cnt = 1#2 ∧ 1 ≤ x.pos := by
  obtain ⟨h3, hpos, -⟩ := h hs
  have hc : x.cnt = 1#2 := by bv_omega
  have hmod : 1 = x.pos % 3 := by simpa [hc] using hpos hf
  exact ⟨hc, by omega⟩

/-- A step that reports an error emits that report and nothing else, in every state. -/
theorem exec_emits_of_raises (h : exec i s = .next t) (hr : s.Raises i k c p) : t.decOut = s.decOut.emit [.error k c p] := by
  obtain ⟨hf, ⟨rfl, rfl, hrom, rfl⟩ | ⟨g, d, rfl, rfl, hc, hd, hrom, hpos⟩⟩ := hr
  · obtain ⟨hs, -⟩ := exec_decChar_next.mp h
    cases h.symm.trans (exec_decChar_raises hs hf hrom)
    rfl
  · obtain ⟨hs, -⟩ := exec_decEnd_next.mp h
    have hend : exec (.decEnd g) s = .next (s.reportError .danglingCharacter c (s.dec.pos - 1)).startDecMessage :=
      exec_decEnd_next.mpr ⟨hs, .inr (.inr (.inr ⟨hf, by simp [hc], by simp [hc], d, c, hd, hrom, rfl⟩))⟩
    cases h.symm.trans hend
    simp [hpos]

theorem not_mem_of_inFlight_eq {e : DecOut} (h : t.decOut = s.decOut)
    (hl : t.decOut.inFlight = s.decOut.inFlight ++ l) : e ∉ l := by
  have hnil : l = [] := by simpa [h] using hl
  simp [hnil]

/-- An accepted digit emits bytes only. -/
theorem acceptDigit_emits_no_error {d : Digit} (h : acceptDigit d s = .next t)
    (hl : t.decOut.inFlight = s.decOut.inFlight ++ l) : .error k c p ∉ l := by
  obtain ⟨-, rfl⟩ | ⟨-, rfl⟩ | ⟨-, -, d1, d0, -, -, rfl⟩ := acceptDigit_next.mp h
  · exact not_mem_of_inFlight_eq rfl hl
  · exact not_mem_of_inFlight_eq rfl hl
  · obtain rfl := List.append_cancel_left hl
    simp

/-- Under the invariant an emitted error report is one that `State.Raises` names: DEC.END finds exactly one digit held. -/
theorem raises_of_emitted (hinv : s.Inv) (h : exec i s = .next t) (hl : t.decOut.inFlight = s.decOut.inFlight ++ l)
    (hmem : .error k c p ∈ l) : s.Raises i k c p := by
  cases i with
  | encReset g | encData data | encEnd g => exact absurd hmem (not_mem_of_inFlight_eq (exec_enc_frame rfl h).2 hl)
  | decReset g =>
    obtain rfl := exec_decReset_next.mp h
    obtain ⟨-, rfl⟩ := List.nil_eq_append_iff.mp hl
    cases hmem
  | decChar data =>
    obtain ⟨-, ⟨-, rfl⟩ | ⟨hf, hrom, rfl⟩ | ⟨-, d, -, ha⟩⟩ := exec_decChar_next.mp h
    · exact absurd hmem (not_mem_of_inFlight_eq rfl hl)
    · obtain rfl := List.append_cancel_left hl
      cases List.mem_singleton.mp hmem
      exact ⟨hf, .inl ⟨rfl, rfl, hrom, rfl⟩⟩
    · exact absurd hmem (acceptDigit_emits_no_error ha hl)
  | decEnd g =>
    obtain ⟨hs, ⟨-, rfl⟩ | ⟨-, -, rfl⟩ | ⟨-, -, d1, d0, -, -, rfl⟩ | ⟨hf, h0, h2, d0, c', hd, hrom, rfl⟩⟩ :=
      exec_decEnd_next.mp h
    · exact absurd hmem (not_mem_of_inFlight_eq rfl hl)
    · obtain rfl := List.append_cancel_left hl
      simp at hmem
    · obtain rfl := List.append_cancel_left hl
      simp at hmem
    · obtain rfl := List.append_cancel_left hl
      obtain ⟨hc, hpos⟩ := hinv.dec.one_held hs hf h0 h2
      cases List.mem_singleton.mp hmem
      exact ⟨hf, .inr ⟨g, d0, rfl, rfl, hc, hd, hrom, (Nat.sub_add_cancel hpos).symm⟩⟩

end Sys2Proof.Machine
end

section
/-! The obligations of 60_exceptions.md. -/

namespace Sys2Proof.Machine

/-- Settles O31: a step that raises emits exactly its report, and under the invariant a report in the emitted events comes
from a step that raises. -/
theorem errorsAreRaisedExactlyThere : Obligations.ErrorsAreRaisedExactlyThere := by
  intro i s t k c p hinv h
  have hemit : s.Raises i k c p → t.decOut.inFlight = s.decOut.inFlight ++ [.error k c p] := fun hr => by
    rw [exec_emits_of_raises h hr, OutPort.emit_inFlight]
  refine ⟨hemit, fun l hl => ?_⟩
  have hsingle : s.Raises i k c p → l = [.error k c p] := fun hr => List.append_cancel_left (hl.symm.trans (hemit hr))
  have hraises : .error k c p ∈ l → s.Raises i k c p := raises_of_emitted hinv h hl
  exact ⟨⟨hraises, fun hr => by simp [hsingle hr]⟩, fun hmem => by simp [hsingle (hraises hmem)]⟩

/-- Settles O2: with nothing presented there is no event to fetch. -/
theorem idleStepHoldsState : Obligations.IdleStepHoldsState := fun _ h => step_of_pending_nil h

end Sys2Proof.Machine
end

section
/-! SUPPORT. Before its first RESET a block refuses every other operation, and what a RESET can deliver of the output (R220,
R222). -/

namespace Sys2Proof.Machine

theorem exec_refused_of_not_started {i : Instr} {s : State} (he : ∀ g, i ≠ .encReset g) (hd : ∀ g, i ≠ .decReset g)
    (h : s.startedAt i.port = false) : exec i s = .refused (.beforeReset i.port) := by
  cases i with
  | encReset g => exact absurd rfl (he g)
  | decReset g => exact absurd rfl (hd g)
  | encData data | encEnd g | decChar data | decEnd g => exact whenStarted_of_not_started h

theorem OutPort.flush_delivered_eq_iff {α : Type} {p : OutPort α} {q : List α} {k : Nat} :
    (p.flush k).delivered = p.delivered ++ q ↔ p.inFlight.take k = q := by
  rw [OutPort.flush_delivered, List.append_cancel_left_eq]

end Sys2Proof.Machine
end

section
/-! SUPPORT. Messages that no END closes: what their DATA or CHAR events alone leave behind (R21, R22, R24, R26, R230). -/

namespace Sys2Proof.Machine

/-! ### ENC -/

theorem State.encAdvance_nil_eq_setEnc {s : State} {e : EncState} : s.encAdvance [] e = s.setEnc e := by
  rw [State.encAdvance, State.emitEnc, OutPort.emit_nil]

theorem done_notMem_map_char (l : List Byte) : EncOut.done ∉ l.map .char := by simp

/-- The characters of the complete pairs, one pair after the other. -/
theorem take_encodeMsg_pair (hi lo : Byte) (b : List Byte) :
    (encodeMsg (hi :: lo :: b)).take (3 * ((hi :: lo :: b).length / 2)) =
      encPair hi lo ++ (encodeMsg b).take (3 * (b.length / 2)) := by
  have hlen : 3 * ((hi :: lo :: b).length / 2) = (encPair hi lo).length + 3 * (b.length / 2) := by
    rw [length_encPair, List.length_cons, List.length_cons]
    omega
  rw [encodeMsg, hlen, List.take_length_add_append]

theorem getLast?_cons_cons_of_odd {hi lo : Byte} {b : List Byte} (h : b.length % 2 = 1) :
    (hi :: lo :: b).getLast? = b.getLast? := by
  cases b with
  | nil => cases h
  | cons c b => rw [List.getLast?_cons_cons, List.getLast?_cons_cons]

/-- From the start of a message, the bytes of `b` emit the characters of the complete pairs, and an odd last byte stays held:
pair by pair, as `encodeMsg` recurs. -/
theorem execAll_encData {s : State} (h : s.enc.AtStart) : ∀ b : List Byte,
    ∃ e : EncState, (e.held = true ↔ b.length % 2 = 1) ∧ (e.held = true → e.hi = b.getLast?) ∧
      execAll (b.map .encData) s = .next (s.encAdvance (((encodeMsg b).take (3 * (b.length / 2))).map .char) e)
  | [] => ⟨s.enc, by simp [h.2], by simp [h.2], congrArg _ State.encAdvance_nil.symm⟩
  | [b] => by
    have htake : (encodeMsg [b]).take (3 * ([b].length / 2)) = [] := by simp
    refine ⟨s.enc.hold b, by simp, by simp, ?_⟩
    rw [htake, List.map_nil, State.encAdvance_nil_eq_setEnc]
    exact execAll_cons_of_next (exec_encData_holds h.1 h.2)
  | hi :: lo :: b => by
    obtain ⟨e, he, hpair⟩ := execAll_encData_pair (hi := hi) (lo := lo) h (b.map .encData)
    obtain ⟨e', hheld, hhi, hrest⟩ := execAll_encData (s := s.encAdvance ((encPair hi lo).map .char) e) he b
    refine ⟨e', ?_, fun hh => ?_, hpair.trans ?_⟩
    · rw [hheld, List.length_cons, List.length_cons, Nat.add_assoc, Nat.add_mod_right]
    · rw [hhi hh, getLast?_cons_cons_of_odd (hheld.mp hh)]
    · rw [hrest, State.encAdvance_encAdvance, take_encodeMsg_pair, List.map_append]

/-! ### DEC -/

section
variable {seen : List (Byte × Nat)} {m bytes : List Byte}

theorem DecState.Holds.cnt_toNat {x : DecState} (h : x.Holds seen) : x.cnt.toNat = seen.length % 3 := by
  cases h with
  | none hcnt hseen => rw [hcnt, hseen]; rfl
  | first hcnt hseen | second hcnt hseen =>
    rw [hcnt, BitVec.toNat_ofNat]
    simp only [List.length_cons]
    omega

/-- What the walk has produced after `m` are the bytes of the complete groups of `m`: an invalid character right after `m`
would report exactly them (R126). -/
theorem length_of_decodeWalk_append (hm : ∀ c ∈ m, romI c ≠ none)
    (hwalk : ∀ t, decodeMsg (m ++ t) = decodeWalk seen bytes t) : bytes.length = 2 * (m.length / 3) := by
  have hc : romI 0x21 = none := rfl
  obtain ⟨before, hbefore, -, herr⟩ := decodeMsg_of_invalid (t := []) hm hc
  rw [hwalk, decodeWalk_cons, lookUp_of_none hc] at herr
  obtain ⟨-, -, -, rfl⟩ := DecodeResult.err.inj herr
  exact hbefore

/-- From the start of a message, valid characters emit the bytes of their complete groups, with which the output of the whole
message begins. -/
theorem execAll_decChar_of_valid {s : State} (h : s.dec.AtStart) (hm : ∀ c ∈ m, romI c ≠ none) :
    ∃ (bytes : List Byte) (seen : List (Byte × Nat)) (x : DecState), x.Reads seen ∧ seen.length = m.length ∧
      bytes.length = 2 * (m.length / 3) ∧ bytes.map .byte <+: (decodeMsg m).events ∧
      execAll (m.map .decChar) s = .next (s.decAdvance (bytes.map .byte) x) := by
  obtain ⟨bytes, seen, x, hx, hlen, hexec, hwalk⟩ := execAll_decChars_of_reads h.reads_nil hm
  have hwalk' : ∀ t, decodeMsg (m ++ t) = decodeWalk seen bytes t := hwalk []
  obtain ⟨-, l, -, -, hfinish⟩ := exec_decEnd_of_reads (g := 0) (s := s.setDec x) hx
  have hmsg : decodeMsg m = finishAt seen.length seen bytes := by simpa [decodeWalk_nil] using hwalk' []
  refine ⟨bytes, seen, x, hx, by simpa using hlen, length_of_decodeWalk_append hm hwalk', ⟨l, ?_⟩, hexec⟩
  rw [hmsg, hfinish]

end

end Sys2Proof.Machine
end

section
/-! SUPPORT. The positions that DEC reports, and which events have output words (R83, R235). -/

namespace Sys2Proof.Machine

variable {i : Instr} {s t : State} {k : ErrCode} {c : Byte} {p : Nat} {l : List DecOut}

/-- No reported position is beyond `dec.pos`, in every state. -/
theorem pos_le_of_emitted_error (h : exec i s = .next t) (hl : t.decOut.inFlight = s.decOut.inFlight ++ l)
    (hmem : .error k c p ∈ l) : p ≤ s.dec.pos := by
  cases i with
  | encReset g | encData data | encEnd g => exact absurd hmem (not_mem_of_inFlight_eq (exec_enc_frame rfl h).2 hl)
  | decReset g =>
    obtain rfl := exec_decReset_next.mp h
    obtain ⟨-, rfl⟩ := List.nil_eq_append_iff.mp hl
    cases hmem
  | decChar data =>
    obtain ⟨-, ⟨-, rfl⟩ | ⟨-, -, rfl⟩ | ⟨-, d, -, ha⟩⟩ := exec_decChar_next.mp h
    · exact absurd hmem (not_mem_of_inFlight_eq rfl hl)
    · obtain rfl := List.append_cancel_left hl
      cases List.mem_singleton.mp hmem
      exact Nat.le_refl _
    · exact absurd hmem (acceptDigit_emits_no_error ha hl)
  | decEnd g =>
    obtain ⟨-, ⟨-, rfl⟩ | ⟨-, -, rfl⟩ | ⟨-, -, d1, d0, -, -, rfl⟩ | ⟨-, -, -, d0, c', -, -, rfl⟩⟩ := exec_decEnd_next.mp h
    · exact absurd hmem (not_mem_of_inFlight_eq rfl hl)
    · obtain rfl := List.append_cancel_left hl
      simp at hmem
    · obtain rfl := List.append_cancel_left hl
      simp at hmem
    · obtain rfl := List.append_cancel_left hl
      cases List.mem_singleton.mp hmem
      exact Nat.sub_le _ _

theorem decOutWord_error_isSome {posW : Nat} (hp : p < 2 ^ posW) : (decOutWord posW (.error k c p)).isSome = true :=
  Option.isSome_of_mem (decOutWord_error_eq_some.mpr ⟨hp, rfl⟩)

theorem decOutWord_error_eq_none {posW : Nat} (hp : 2 ^ posW ≤ p) : decOutWord posW (.error k c p) = none :=
  if_neg (Nat.not_lt.mpr hp)

end Sys2Proof.Machine
end

section
/-! The obligations of 70_reset_and_hazards.md. -/

namespace Sys2Proof.Machine

/-- Settles O37: what a flush delivers is a `take` of the undelivered events, and those are their prefixes. -/
theorem resetDeliversAnyPrefix : Obligations.ResetDeliversAnyPrefix := by
  intro α p q
  simp only [OutPort.flush_delivered_eq_iff]
  constructor
  · rintro ⟨k, rfl⟩
    exact List.take_prefix k _
  · exact fun h => ⟨q.length, (List.prefix_iff_eq_take.mp h).symm⟩

/-- Settles O51: the characters emitted are those of the complete pairs, which `encode b` begins with. -/
theorem unclosedEncoderMessage : Obligations.UnclosedEncoderMessage := by
  intro b s hstart
  obtain ⟨e, hheld, hhi, hexec⟩ := execAll_encData hstart b
  refine ⟨_, _, hexec, rfl, (List.take_prefix _ _).map _, ?_, done_notMem_map_char _, hheld, hhi⟩
  rw [List.length_map, List.length_take, length_encodeMsg]
  omega

/-- Settles O52: the bytes emitted are those of the complete groups, and DEC is left reading the characters of `m`. -/
theorem unclosedDecoderMessage : Obligations.UnclosedDecoderMessage := by
  intro m s hstart hm
  obtain ⟨bytes, seen, x, ⟨-, hf, hpos, hholds⟩, hlen, hbytes, hprefix, hexec⟩ := execAll_decChar_of_valid hstart hm
  refine ⟨_, _, hexec, rfl, hprefix, by rw [List.length_map, hbytes], by simp, hpos.trans hlen, ?_, hf⟩
  rw [← hlen]
  exact hholds.cnt_toNat

/-- Settles O55: only an ERROR has a position, and it is at most `dec.pos`. -/
theorem positionsInRangeHaveWords : Obligations.PositionsInRangeHaveWords := by
  refine ⟨fun posW i s t l hpos h hl e he => ?_, fun _ _ _ _ => decOutWord_error_eq_none⟩
  cases e with
  | byte b => rfl
  | done => rfl
  | error k c p => exact decOutWord_error_isSome (Nat.lt_of_le_of_lt (pos_le_of_emitted_error h hl he) hpos)

/-- Settles O22: the guard of every other operation refuses, and RESET answers in every state. -/
theorem beforeResetOnlyResetRuns : Obligations.BeforeResetOnlyResetRuns := by
  intro s
  constructor
  · intro h
    exact ⟨fun _ => exec_refused_of_not_started nofun nofun h, fun _ => exec_refused_of_not_started nofun nofun h,
      fun _ => ⟨_, exec_encReset_next.mpr rfl, rfl, rfl⟩⟩
  · intro h
    exact ⟨fun _ => exec_refused_of_not_started nofun nofun h, fun _ => exec_refused_of_not_started nofun nofun h,
      fun _ => ⟨_, exec_decReset_next.mpr rfl, rfl, rfl, rfl, rfl⟩⟩

end Sys2Proof.Machine
end
